-- ==== Sys2Proof/Word.lean ====
section
/-! DEFINITION. The machine's words: the byte (R10), the 32-bit register (R6), and the half, a byte
sequence of `H = 16` bytes (R21) that carries the proof of its length. -/

namespace Sys2Proof

/-- A byte: 8 bits, an unsigned value 0 to 255 (R10). -/
abbrev Byte := BitVec 8

/-- A register value or a command word: 32 bits, unsigned (R6, R9). -/
abbrev Word := BitVec 32

/-- A half: the left or right 16 bytes of a block, byte 0 first (R21). A wrong length cannot be built. -/
structure Half where
  bytes : List Byte
  len : bytes.length = 16
  deriving DecidableEq, Repr

/-- The half of sixteen zero bytes. -/
def Half.zero : Half := ⟨List.replicate 16 0, rfl⟩

end Sys2Proof
end

