-- ==== Sys2Proof/Syntax.lean ====
section
/-! DEFINITION. The instruction set: the eight commands of spec/opcode_table.json (R2, R92). No command
has an operand field (R91), so no constructor has an argument. -/

namespace Sys2Proof

/-- The eight commands (R2, R92). -/
inductive Instr where
  /-- `XOR` (R113): element-wise exclusive-or of `IBUF` and `XBUF`. -/
  | xor
  /-- `ROUND` (R130): one round transform of one block, no final flip. -/
  | round
  /-- `FLIP` (R143): exchange of the halves of one even-length sequence. -/
  | flip
  /-- `PAD` (R155): append PKCS#7 padding. -/
  | pad
  /-- `UNPAD` (R156): validate and strip PKCS#7 padding. -/
  | unpad
  /-- `ENC` (R190): `crypt` in the encrypt direction. -/
  | enc
  /-- `DEC` (R191): `crypt` in the decrypt direction. -/
  | dec
  /-- `RST` (R210): soft reset. -/
  | rst
  deriving DecidableEq, Repr

end Sys2Proof
end

