-- ==== Sys2Proof/WellFormed.lean ====
section
/-! DEFINITION. The form of a command word, `CMD32` (R90): its three fields, the checks they must pass,
and the fields of each command (R92). A command has no operands (R91), so the checks are on the fields. -/

namespace Sys2Proof

/-- The fields of the format `CMD32` (R90). -/
structure CommandFields where
  /-- bits 3:0, the opcode -/
  opc : BitVec 4
  /-- bit 4, the direction -/
  dir : BitVec 1
  /-- bits 31:5, must be 0 -/
  zero : BitVec 27
  deriving DecidableEq, Repr

/-- Bits 31:5 are 0 (R90). -/
def CommandFields.zeroOk (f : CommandFields) : Bool := f.zero == 0

/-- `DIR` is 0 for every opcode but 6 (R90). -/
def CommandFields.dirOk (f : CommandFields) : Bool := f.dir == 0 || f.opc == 6

/-- The opcode is one of 1 to 7 (R92, R94). -/
def CommandFields.opcOk (f : CommandFields) : Bool := 1 ≤ f.opc.toNat && f.opc.toNat ≤ 7

/-- All three checks of the format. -/
def CommandFields.wellFormed (f : CommandFields) : Bool := f.zeroOk && f.dirOk && f.opcOk

/-- The `OPC` and `DIR` columns of the opcode map (R92). -/
def Instr.fields : Instr → CommandFields
  | .xor => ⟨1, 0, 0⟩
  | .round => ⟨2, 0, 0⟩
  | .flip => ⟨3, 0, 0⟩
  | .pad => ⟨4, 0, 0⟩
  | .unpad => ⟨5, 0, 0⟩
  | .enc => ⟨6, 0, 0⟩
  | .dec => ⟨6, 1, 0⟩
  | .rst => ⟨7, 0, 0⟩

/-- A command is well-formed when its fields pass the checks of the format. -/
def Instr.wellFormed (i : Instr) : Bool := i.fields.wellFormed

end Sys2Proof
end

