-- ==== Sys2Proof/Decode.lean ====
section
/-! DEFINITION. The decoder of the command word, total, rejecting by name (R93, R94), and the encoder
written from the opcode map (R92). -/

namespace Sys2Proof

/-- Why a word is not a command (R94). -/
inductive DecodeReject where
  /-- a 1 in bits 31:5 -/
  | zeroFieldNotZero
  /-- `DIR = 1` with an opcode other than 6 -/
  | directionNotAllowed
  /-- opcode 0, or 8 to 15 -/
  | opcodeReserved
  deriving DecidableEq, Repr

/-- The fields of a word (R90). -/
def fieldsOf (w : Word) : CommandFields :=
  ⟨w.extractLsb' 0 4, w.extractLsb' 4 1, w.extractLsb' 5 27⟩

/-- `case w[3:0] of` the opcodes with `DIR = 0` (R93). -/
def decodeOpcode (opc : BitVec 4) : Except DecodeReject Instr :=
  match opc.toNat with
  | 1 => .ok .xor
  | 2 => .ok .round
  | 3 => .ok .flip
  | 4 => .ok .pad
  | 5 => .ok .unpad
  | 7 => .ok .rst
  | _ => .error .opcodeReserved

/-- `decode(w)` (R93), in the order the rule gives. -/
def decode (w : Word) : Except DecodeReject Instr :=
  let f := fieldsOf w
  if f.zero ≠ 0 then .error .zeroFieldNotZero
  else if f.opc = 6 then (if f.dir = 0 then .ok .enc else .ok .dec)
  else if f.dir = 1 then .error .directionNotAllowed
  else decodeOpcode f.opc

/-- The word of given fields: `ZERO`, `DIR`, `OPC` from the most significant end (R90). -/
def packFields (f : CommandFields) : Word := (f.zero ++ f.dir ++ f.opc).cast (by decide)

/-- The word `w(M)` of a command (R92). -/
def encode (i : Instr) : Word := packFields i.fields

/-- The command in an instruction whose bits are `w`, numbered as spec/opcode_table.json numbers them. A
command is exactly one 32-bit word (R95), so a number with a bit above bit 31 is none. -/
def decodeTableWord (_nbits w : Nat) : Option Instr :=
  if w < 2 ^ 32 then
    match decode (BitVec.ofNat 32 w) with
    | .ok i => some i
    | .error _ => none
  else none

end Sys2Proof
end

