-- ==== Sys2Proof/Config.lean ====
section
/-! DEFINITION. What this hardware fixes (R6) and the free values: opaque constants without a body, of
which no proof can know a value (notes/assumptions 1, 6, 7, 9, 10). -/

namespace Sys2Proof

/-- The answer of a mixing function to a half (R120): `ok(y)`, or `fail(code)` with an 8-bit code. -/
inductive MixAnswer where
  | ok (y : Half)
  | fail (code : Byte)
  deriving DecidableEq, Repr, Inhabited

/-- A mixing function: a capability the engine depends on but does not own (R120). -/
abbrev MixFn := Half → MixAnswer

namespace Config

/-- `BLOCK_SIZE`, written `B` (R6). -/
abbrev blockSize : Nat := 32

/-- `HALF`, written `H`: half of `B` (R6). -/
abbrev half : Nat := 16

/-- `CAP`, the bytes of each buffer (R6, R38). -/
abbrev cap : Nat := 4096

/-- `ROUNDS_DEFAULT` (R6, R31). -/
abbrev roundsDefault : Word := 32

/-- `PAD_VALIDATE`: this hardware validates (R6, R153). -/
abbrev padValidate : Bool := true

/-- `ID.IFVER`, the version of the interface (R37). -/
abbrev interfaceVersion : BitVec 16 := 1

/-- FREE VALUE (log 1). The mixing function of the unit number `unit` (R120): a parameter of the machine,
deterministic because it is a function (R124), otherwise unconstrained. -/
opaque mix (unit : Nat) : MixFn

/-- FREE VALUE (log 6, 9). The `k`-th fresh value of `w` bits: what a rule calls unspecified (U4, U12). -/
opaque freeBits (w k : Nat) : BitVec w

/-- FREE VALUE (log 7). What the buffer byte at a host offset holds after the hard reset number `resets`
until it is written (R262, R274, U5): drawn once per byte at the reset, then storage. -/
opaque resetByte (resets offset : Nat) : Byte

end Config

end Sys2Proof
end

