-- ==== Sys2Proof/Machine/Ports.lean ====
section
/-! DEFINITION. The names of the machine's parts and of what crosses its ports (R45): phases, error
kinds, registers, buffers, host accesses, mixing-function responses, and the environment's events. -/

namespace Sys2Proof.Machine

/-- The phase `PH` of the sequencer (R24). -/
inductive Phase where
  /-- no command in progress -/
  | idle
  /-- an `XOR`, `FLIP`, `PAD` or `UNPAD` is accepted, its result not yet written -/
  | exec
  /-- block number `BCNT` is about to be loaded -/
  | load
  /-- `R` is about to be sent to the mixing function -/
  | freq
  /-- a request is outstanding -/
  | fwait
  /-- the rounds of the block are done, the block is about to be written -/
  | store
  /-- all blocks are stored, the result length is about to be settled -/
  | finish
  deriving DecidableEq, Repr

/-- The errors a command can end in (R225). -/
inductive ErrorKind where
  | lengthMismatch
  | invalidBlockLength
  | invalidInputLength
  | paddingError
  | mixFault
  | illegalCommand
  | capacityExceeded
  | invalidRoundCount
  deriving DecidableEq, Repr

/-- The thirteen registers (R27), in the order of their offsets. -/
inductive Reg where
  | ctrl | status | cmd | rounds | srcLen | src2Len | dstLen | rcnt | bcnt | errinfo | ferr | id | capr
  deriving DecidableEq, Repr

/-- The three buffers (R42). -/
inductive Buf where
  | ibuf | xbuf | obuf
  deriving DecidableEq, Repr

/-- The two sizes of a host access (R62). -/
inductive Size where
  | byte
  | word
  deriving DecidableEq, Repr

/-- The data of a host write, which fixes its size (R62). -/
inductive WriteData where
  | byte (v : Byte)
  | word (v : Word)
  deriving DecidableEq, Repr

/-- What a legal host access reaches (R60, R62): a register, or byte number `i` of a buffer. -/
inductive Target where
  | reg (r : Reg)
  | buf (b : Buf) (i : Nat)
  deriving DecidableEq, Repr

/-- A response of the host port (R45, R62). -/
inductive Reply where
  /-- a write is done, or dropped (R70) -/
  | ok
  /-- a read of one byte -/
  | byte (v : Byte)
  /-- a read of 32 bits -/
  | word (v : Word)
  /-- an access that is not a legal combination (R66) -/
  | error
  deriving DecidableEq, Repr

/-- A response on the mixing-function port, `FResp(ok, y, code)`, as its bits (R121, R123). -/
structure MixResponse where
  ok : Bool
  data : BitVec 128
  code : Byte
  deriving DecidableEq, Repr

/-- The attached mixing-function unit, as plain data (R120, R123; log 1, 14). -/
structure MixUnit where
  /-- which unit: it computes `Config.mix unit` -/
  unit : Nat
  /-- answers known of it, which stand before those of `Config.mix unit` -/
  known : List (Half × MixAnswer)
  /-- whether it answers of itself (R123), or leaves a request unanswered (R272, U8) -/
  answering : Bool
  deriving DecidableEq, Repr

/-- One action of the environment, or one turn given to the engine (R13, R45; log 2). -/
inductive Event where
  /-- a host read (R63) -/
  | read (addr : BitVec 14) (size : Size)
  /-- a host write (R64) -/
  | write (addr : BitVec 14) (data : WriteData)
  /-- the pseudo-instruction `wait` of the host script: read `STATUS` until `BUSY` is 0 (R97) -/
  | wait
  /-- the engine takes its next step; in FWAIT the unit answers, if it does -/
  | turn
  /-- the mixing-function unit delivers a response (R123) -/
  | response (m : MixResponse)
  /-- the platform attaches a mixing-function unit (R124, R265) -/
  | attach (u : MixUnit)
  /-- the hard reset event (R260) -/
  | hardReset
  deriving DecidableEq, Repr

end Sys2Proof.Machine
end

