-- ==== Sys2Proof/Machine/State.lean ====
section
/-! DEFINITION. The state of the machine as plain data: everything 10_state.md gives the engine, then
what the environment does and sees, then the counters of free values. -/

namespace Sys2Proof.Machine

/-- The command latches, written at acceptance and not addressable by the host (R43). -/
structure Latches where
  /-- `w[4:0]` of the accepted word: opcode and `DIR` -/
  op : BitVec 5
  /-- `SRC_LEN` at acceptance -/
  n : Word
  /-- `SRC2_LEN` at acceptance -/
  n2 : Word
  /-- rounds per block -/
  reff : Word
  /-- the pad value of `ENC`, otherwise 0 -/
  m : Byte
  /-- number of blocks -/
  nb : BitVec 8
  deriving DecidableEq, Repr

/-- The machine's state (R20, and the ports of R45). -/
structure State where
  /-- `L` (R21) -/
  left : Half
  /-- `R` (R21) -/
  right : Half
  /-- `PH` (R24); `STATUS.BUSY` is its image (R29) -/
  phase : Phase
  /-- `BCNT` (R36) -/
  bcnt : Word
  /-- `RCNT` (R35) -/
  rcnt : Word
  /-- `CTRL.IE` (R28) -/
  ie : Bool
  /-- `STATUS.DONE` (R29) -/
  done : Bool
  /-- `STATUS.ERR` (R29) -/
  err : Bool
  /-- `STATUS.ESTK` (R29) -/
  estk : Bool
  /-- `STATUS.WRBUSY` (R29) -/
  wrbusy : Bool
  /-- `STATUS.ERRCODE` (R29, R225) -/
  errcode : Byte
  /-- `ROUNDS` (R31) -/
  rounds : Word
  /-- `SRC_LEN` (R32) -/
  srcLen : Word
  /-- `SRC2_LEN` (R33) -/
  src2Len : Word
  /-- `DST_LEN` (R34) -/
  dstLen : Word
  /-- `ERRINFO` (R39) -/
  errinfo : Word
  /-- `FERR.FCODE` (R40) -/
  fcode : Byte
  /-- `IBUF` (R42): the bytes written since the last hard reset, by index -/
  ibuf : List Host.Cell
  /-- `XBUF` (R42), likewise -/
  xbuf : List Host.Cell
  /-- `OBUF` (R42), likewise -/
  obuf : List Host.Cell
  /-- the command latches (R43) -/
  latch : Latches
  /-- what the environment does next, first first (log 2) -/
  events : List Event
  /-- what the host port has answered, newest first (log 15) -/
  replies : List Reply
  /-- the halves sent on the mixing-function port, newest first (R122; log 15) -/
  requests : List Half
  /-- the attached mixing-function unit (R120; log 1, 14) -/
  mix : MixUnit
  /-- the number of the next fresh free value (log 6) -/
  draws : Nat
  /-- how many hard resets there have been (log 7) -/
  resets : Nat
  deriving DecidableEq, Repr

/-- Why the machine stops where no rule gives it a step. Each is SAFE (log 11): no run from reset meets one. -/
inductive Fault where
  /-- raised by a meaning: the command has no step in this phase (R184). Safe: the machine stops. -/
  | noStepInPhase
  /-- raised by `runLatched`: the latch `OP` holds no command while a command is in progress (R43). Safe. -/
  | latchNotACommand
  /-- raised by the engine's steps: a buffer index of `CAP` or more (R73, R174). Safe: the machine stops. -/
  | outsideBuffer
  deriving DecidableEq, Repr

/-- Why the model has no move for what the environment did. -/
inductive Refusal where
  /-- raised by `exec` alone: an instruction without a meaning; no arm raises it. Safe. -/
  | notModelled (mnemonic : String)
  /-- raised by `attachUnit`: another mixing function during a command (R124, U7; log 12). Safe. -/
  | mixChangedDuringCommand
  /-- raised by `takeResponse`: a response that is not `F(x)` of the outstanding request (U15; log 13). Safe. -/
  | responseNotTheAnswer
  deriving DecidableEq, Repr

/-- The outcome of a step of this machine. -/
abbrev Res := Host.Outcome State Fault Refusal

/-- The state after hard reset (R46). `L`, `R` and the latches, which R46 leaves unspecified, are zero here
(DESIGN CHOICE, log 8); the buffers list nothing, so every byte is a free value (log 7). -/
def State.reset : State where
  left := Half.zero
  right := Half.zero
  phase := .idle
  bcnt := 0
  rcnt := 0
  ie := false
  done := false
  err := false
  estk := false
  wrbusy := false
  errcode := 0
  rounds := Config.roundsDefault
  srcLen := 0
  src2Len := 0
  dstLen := 0
  errinfo := 0
  fcode := 0
  ibuf := []
  xbuf := []
  obuf := []
  latch := ⟨0, 0, 0, 0, 0, 0⟩
  events := []
  replies := []
  requests := []
  mix := ⟨0, [], true⟩
  draws := 0
  resets := 0

end Sys2Proof.Machine
end

