-- ==== Sys2Proof/Machine/Flags.lean ====
section
/-! DEFINITION. The flags: the word `STATUS` reads as (R29), what a host write clears (R29, R212), the
error codes (R225), and the interrupt level (R240). -/

namespace Sys2Proof.Machine

/-- The error code, the value of `STATUS.ERRCODE` (R225). -/
def errorCode : ErrorKind → Byte
  | .lengthMismatch => 1
  | .invalidBlockLength => 2
  | .invalidInputLength => 3
  | .paddingError => 4
  | .mixFault => 5
  | .illegalCommand => 6
  | .capacityExceeded => 7
  | .invalidRoundCount => 8

/-- `STATUS.BUSY`: 1 exactly when `PH != IDLE`, not separate storage (R24, R29). -/
def busy (s : State) : Bool := s.phase != .idle

/-- `irq = STATUS.DONE AND CTRL.IE`, at every moment (R240). -/
def irq (s : State) : Bool := s.done && s.ie

/-- The word `STATUS` reads as (R29): reserved bits read 0. -/
def statusWord (s : State) : Word :=
  ((0 : BitVec 16) ++ s.errcode ++ (0 : BitVec 3) ++ BitVec.ofBool s.wrbusy ++ BitVec.ofBool s.estk ++
    BitVec.ofBool s.err ++ BitVec.ofBool s.done ++ BitVec.ofBool (busy s)).cast (by decide)

/-- A host write of `v` to `STATUS` while idle: `DONE` and `WRBUSY` are write-1-to-clear, the rest ignored (R29). -/
def clearStatus (v : Word) (s : State) : State :=
  { s with done := s.done && !v.getLsbD 1, wrbusy := s.wrbusy && !v.getLsbD 4 }

end Sys2Proof.Machine
end

