-- ==== Sys2Proof/Machine/Functions.lean ====
section
/-! DEFINITION. The engine's functions on byte sequences: xor (R110), flip (R140), pad and unpad (R150,
R153, R157), the round transform and its iterates (R125, R127), the per-block transform (R170) and
crypt (R171). They read nothing but their arguments. -/

namespace Sys2Proof.Machine

/-- The half whose byte `j` is `f j`. -/
def halfOf (f : Nat → Byte) : Half := ⟨(List.range 16).map f, by simp⟩

/-- The half that travels as 128 port bits: byte `j` on bits `8j+7 : 8j` (R121). -/
def halfOfBits (v : BitVec 128) : Half := halfOf fun j => v.extractLsb' (8 * j) 8

/-- The 128 port bits of a byte sequence, byte `j` on bits `8j+7 : 8j` (R121). -/
def bitsOfBytes (bs : List Byte) : BitVec 128 :=
  bs.foldr (fun b acc => (acc <<< 8) ||| b.setWidth 128) 0

/-- The 128 port bits of a half (R121). -/
def bitsOfHalf (h : Half) : BitVec 128 := bitsOfBytes h.bytes

/-- `xor(a, b)` for sequences of equal length (R110); none where the lengths differ (R112, U1). -/
def xorSeq (a b : List Byte) : Option (List Byte) :=
  if a.length = b.length then some (List.zipWith (· ^^^ ·) a b) else none

/-- `xor` of two halves, whose lengths are equal by construction (R112). -/
def halfXor (a b : Half) : Half :=
  ⟨List.zipWith (· ^^^ ·) a.bytes b.bytes, by simp [a.len, b.len]⟩

/-- `flip(block)` for an even-length block: the halves exchanged (R140). At an odd length, which R142 leaves without
behaviour, it has no value (DESIGN CHOICE, log 20). -/
def flipSeq (s : List Byte) : Option (List Byte) :=
  if s.length % 2 = 0 then some (s.drop (s.length / 2) ++ s.take (s.length / 2)) else none

/-- `m = B - (n mod B)` (R150). -/
def padCount (n : Nat) : Nat := Config.blockSize - n % Config.blockSize

/-- The pad byte: `m` as a byte, which it fits (R7, R150). -/
def padByte (n : Nat) : Byte := BitVec.ofNat 8 (padCount n)

/-- `pad(data) = data || rep(m, m)` (R150). -/
def pad (data : List Byte) : List Byte :=
  data ++ List.replicate (padCount data.length) (padByte data.length)

/-- `unpad_v(data)` (R153): the validating unpad; a failure is `PaddingError(m)`. -/
def unpadV (data : List Byte) : Except Byte (List Byte) :=
  match data.getLast? with
  | none => .ok data
  | some m =>
    if m.toNat = 0 ∨ Config.blockSize < m.toNat ∨ data.length < m.toNat then .error m
    else if (data.drop (data.length - m.toNat)).all (· == m) then
      .ok (data.take (data.length - m.toNat))
    else .error m

/-- `unpad_0(data)` (R157): the unvalidated variant, not this hardware; `m > n` is a fault, never a value. -/
def unpad0 (data : List Byte) : Except Byte (List Byte) :=
  match data.getLast? with
  | none => .ok data
  | some m =>
    if m.toNat ≤ data.length then .ok (data.take (data.length - m.toNat)) else .error m

/-- The unpadding of the hardware: the parameter `PAD_VALIDATE` chooses (R6, R153, R157). -/
def unpad (data : List Byte) : Except Byte (List Byte) :=
  if Config.padValidate then unpadV data else unpad0 data

/-- A block as its two halves, left then right (R125). -/
abbrev Block := Half × Half

/-- The byte sequence of a block: `left || right`. -/
def blockBytes (b : Block) : List Byte := b.1.bytes ++ b.2.bytes

/-- `flip` of a block held as two halves: `flip(a || b) = b || a` (R140). -/
def flipBlock (b : Block) : Block := (b.2, b.1)

/-- `Ψ_F(left || right) = right || xor(left, F(right))`, failing with the code `F` fails with (R125). -/
def psi (f : MixFn) (b : Block) : Except Byte Block :=
  match f b.2 with
  | .ok y => .ok (b.2, halfXor b.1 y)
  | .fail code => .error code

/-- `Ψ^r` (R127): `Ψ^0` is the identity, and each further round follows the ones before it. -/
def psiIter (f : MixFn) : Nat → Block → Except Byte Block
  | 0, b => .ok b
  | r + 1, b =>
    match psiIter f r b with
    | .ok b' => psi f b'
    | .error code => .error code

/-- `E_{F,r}(block) = flip(Ψ_F^r(block))` (R170). -/
def transformBlock (f : MixFn) (r : Nat) (b : Block) : Except Byte Block :=
  match psiIter f r b with
  | .ok b' => .ok (flipBlock b')
  | .error code => .error code

/-- Block number `k` of the sequence whose byte `j` is `p j`: `p[kB : kB+H]` and `p[kB+H : (k+1)B]` (R73, R178). -/
def blockAt (p : Nat → Byte) (k : Nat) : Block :=
  (halfOf fun j => p (k * Config.blockSize + j),
   halfOf fun j => p (k * Config.blockSize + Config.half + j))

/-- `E(p[0:B]) || ... || E(p[(nb-1)B : nb·B])` (R171, R187). -/
def transformBlocks (f : MixFn) (r : Nat) (p : Nat → Byte) : Nat → Except Byte (List Byte)
  | 0 => .ok []
  | nb + 1 =>
    match transformBlocks f r p nb with
    | .error code => .error code
    | .ok out =>
      match transformBlock f r (blockAt p nb) with
      | .error code => .error code
      | .ok b => .ok (out ++ blockBytes b)

/-- How `crypt` can fail (R171). -/
inductive CryptError where
  | invalidInputLength
  | mix (code : Byte)
  | padding (m : Byte)
  deriving DecidableEq, Repr

/-- The blocks of a sequence transformed, a failure of `F` passed on (R171, R196). -/
def cryptSeq (f : MixFn) (r : Nat) (data : List Byte) : Except CryptError (List Byte) :=
  match transformBlocks f r (fun j => data.getD j 0) (data.length / Config.blockSize) with
  | .ok out => .ok out
  | .error code => .error (.mix code)

/-- `crypt(data, F, decrypt, r)`, the source's contract (R171). -/
def crypt (data : List Byte) (f : MixFn) (decrypt : Bool) (r : Nat) : Except CryptError (List Byte) :=
  if decrypt then
    if data.length = 0 ∨ data.length % Config.blockSize ≠ 0 then .error .invalidInputLength
    else
      match cryptSeq f r data with
      | .error e => .error e
      | .ok out =>
        match unpad out with
        | .ok s => .ok s
        | .error m => .error (.padding m)
  else cryptSeq f r (pad data)

end Sys2Proof.Machine
end

