-- ==== Sys2Proof/Machine/Ops.lean ====
section
/-! DEFINITION. The named operations over memory and registers: one byte of a buffer, the taking of an
error (R236), completion (R183), acceptance (R176), the resets (R210, R260), and the mixing function. -/

namespace Sys2Proof.Machine

/-- The byte listed at an index, none where nothing has been written since the last hard reset. -/
def memGet : List Host.Cell → Nat → Option Byte
  | [], _ => none
  | (b, v) :: m, a => if a = b then some v else memGet m a

/-- A write of one byte, which keeps the indexes strictly rising. -/
def memPut : List Host.Cell → Nat → Byte → List Host.Cell
  | [], a, v => [(a, v)]
  | (b, w) :: m, a, v =>
    if a < b then (a, v) :: (b, w) :: m
    else if a = b then (a, v) :: m
    else (b, w) :: memPut m a v

/-- A write of consecutive bytes from an index on: `BUF[a:b] <- s` (R11). -/
def memPutSeq : List Host.Cell → Nat → List Byte → List Host.Cell
  | m, _, [] => m
  | m, a, v :: vs => memPutSeq (memPut m a v) (a + 1) vs

/-- Every listed index is at least `lo`, below `hi`, and above the one before it. -/
def memRising : Nat → Nat → List Host.Cell → Bool
  | _, _, [] => true
  | lo, hi, (a, _) :: m => lo ≤ a && a < hi && memRising (a + 1) hi m

/-- The canonical form of a buffer: indexes strictly rising, all below `CAP`. An unlisted index has no
value here, so no entry can repeat it (log 7). -/
def Memory.wf (m : List Host.Cell) : Bool := memRising 0 Config.cap m

/-- The cells of a buffer. -/
def bufCells : Buf → State → List Host.Cell
  | .ibuf, s => s.ibuf
  | .xbuf, s => s.xbuf
  | .obuf, s => s.obuf

/-- The host offset of byte 0 of a buffer (R61). -/
def bufBase : Buf → Nat
  | .ibuf => 0x1000
  | .xbuf => 0x2000
  | .obuf => 0x3000

/-- `BUF[i]`: the byte written there, or the free value it holds since the last hard reset (R42, R274). -/
def bufByte (b : Buf) (s : State) (i : Nat) : Byte :=
  (memGet (bufCells b s) i).getD (Config.resetByte s.resets (bufBase b + i))

/-- `BUF[a : a+n]` (R11). -/
def bufSlice (b : Buf) (s : State) (a n : Nat) : List Byte :=
  (List.range n).map fun j => bufByte b s (a + j)

/-- `OBUF[a : a+len(v)] <- v` (R11). -/
def storeObuf (a : Nat) (v : List Byte) (s : State) : State :=
  { s with obuf := memPutSeq s.obuf a v }

/-- Completion (R183). -/
def complete (s : State) : State := { s with phase := .idle, done := true }

/-- The error termination `raise X(info)` (R236): this machine's taking of an exception. -/
def raise (e : ErrorKind) (info : Word) (s : State) : State :=
  { s with
    errcode := errorCode e
    errinfo := info
    err := true
    estk := true
    done := true
    dstLen := 0
    phase := .idle }

/-- What acceptance clears (R176): the report of the command before it; there is no other return from an
error (R238). -/
def acceptClear (s : State) : State :=
  { s with
    done := false
    err := false
    errcode := 0
    errinfo := 0
    fcode := 0
    dstLen := 0
    rcnt := 0
    bcnt := 0 }

/-- `OP <- w[4:0]; N <- SRC_LEN; N2 <- SRC2_LEN` (R176). -/
def latchOperands (i : Instr) (s : State) : State :=
  { s with
    latch := { s.latch with op := (encode i).extractLsb' 0 5, n := s.srcLen, n2 := s.src2Len } }

/-- The start of the acceptance of command `i`: the clearing, then the operand latches (R176). -/
def beginCommand (i : Instr) (s : State) : State := latchOperands i (acceptClear s)

/-- `XOR, FLIP, PAD, UNPAD: REFF <- 0; M <- 0; NB <- 0; PH <- EXEC` (R176). -/
def enterExec (s : State) : State :=
  { s with latch := { s.latch with reff := 0, m := 0, nb := 0 }, phase := .exec }

/-- `REFF <- reff; M <- m; NB <- nb; PH <- LOAD` (R176). -/
def enterLoad (reff : Word) (m : Byte) (nb : BitVec 8) (s : State) : State :=
  { s with latch := { s.latch with reff := reff, m := m, nb := nb }, phase := .load }

/-- `L`, `R` and the latches become unspecified (R210, R262, U12): each takes a fresh free value (log 9). -/
def loseHidden (s : State) : State :=
  { s with
    left := halfOfBits (Config.freeBits 128 s.draws)
    right := halfOfBits (Config.freeBits 128 (s.draws + 1))
    latch :=
      { op := Config.freeBits 5 s.draws
        n := Config.freeBits 32 s.draws
        n2 := Config.freeBits 32 (s.draws + 1)
        reff := Config.freeBits 32 (s.draws + 2)
        m := Config.freeBits 8 s.draws
        nb := Config.freeBits 8 (s.draws + 1) }
    draws := s.draws + 3 }

/-- The registers at their reset values (R46, R210). -/
def resetRegisters (s : State) : State :=
  { s with
    phase := .idle
    bcnt := 0
    rcnt := 0
    ie := false
    done := false
    err := false
    estk := false
    wrbusy := false
    errcode := 0
    rounds := Config.roundsDefault
    srcLen := 0
    src2Len := 0
    dstLen := 0
    errinfo := 0
    fcode := 0 }

/-- Soft reset (R210): the registers, with the buffers kept. -/
def softReset (s : State) : State := loseHidden (resetRegisters s)

/-- Hard reset (R260, R262): the registers, with the buffers unspecified anew. -/
def hardReset (s : State) : State :=
  { loseHidden (resetRegisters s) with ibuf := [], xbuf := [], obuf := [], resets := s.resets + 1 }

/-- The attached mixing function `F` (R120): the answers known of the unit, then the unit's own function. -/
def mixFn (u : MixUnit) : MixFn := fun x => (u.known.lookup x).getD (Config.mix u.unit x)

end Sys2Proof.Machine
end

