-- ==== Sys2Proof/Machine/Operands.lean ====
section
/-! DEFINITION. The operands of the commands (R73, R91, R172): every one is implicit, a slice of a buffer
by the latched length, or the padded input `p` that is never stored. -/

namespace Sys2Proof.Machine

/-- `IBUF[0:N]`, the operand of `XOR`, `FLIP`, `PAD`, `UNPAD` (R91). -/
def operandA (s : State) : List Byte := bufSlice .ibuf s 0 s.latch.n.toNat

/-- `XBUF[0:N2]`, the second operand of `XOR` (R113). -/
def operandB (s : State) : List Byte := bufSlice .xbuf s 0 s.latch.n2.toNat

/-- The input `p` of `ROUND`: `p[j] = IBUF[j]` (R172). -/
def roundInput (s : State) (j : Nat) : Byte := bufByte .ibuf s j

/-- The input `p` of `ENC`: `IBUF[j]` below `N`, the pad value `M` from `N` on (R172). -/
def encInput (s : State) (j : Nat) : Byte :=
  if j < s.latch.n.toNat then bufByte .ibuf s j else s.latch.m

/-- The input `p` of `DEC`: `p[j] = IBUF[j]` (R172). -/
def decInput (s : State) (j : Nat) : Byte := bufByte .ibuf s j

/-- `OBUF[0:N]`, which `DEC` reads back in its finish step (R68, R182). -/
def storedOutput (s : State) : List Byte := bufSlice .obuf s 0 s.latch.n.toNat

end Sys2Proof.Machine
end

