-- ==== Sys2Proof/Machine/Sequencer.lean ====
section
/-! DEFINITION. The steps of the sequencer that the commands share (R177 to R182), each indivisible. A
buffer index of `CAP` or more, which no run reaches (R73, R174), stops the machine (log 11). -/

namespace Sys2Proof.Machine

/-- The engine reaches the first `n` bytes of a buffer, all below `CAP` (R73). -/
def withinBuffer (n : Nat) (r : Res) : Res := if n ≤ Config.cap then r else .fault .outsideBuffer

/-- The end of an `EXEC` step: `OBUF[0:len] <- v; DST_LEN <- len; complete` (R177). -/
def putResult (v : List Byte) (s : State) : Res :=
  withinBuffer v.length
    (.next (complete { storeObuf 0 v s with dstLen := BitVec.ofNat 32 v.length }))

/-- The `LOAD` step of block `BCNT` of the input `p` (R178). -/
def loadStep (p : Nat → Byte) (s : State) : Res :=
  withinBuffer ((s.bcnt.toNat + 1) * Config.blockSize)
    (.next { s with
      left := (blockAt p s.bcnt.toNat).1
      right := (blockAt p s.bcnt.toNat).2
      phase := .freq })

/-- The `FREQ` step (R179): emits `FReq(R)` (R122). -/
def requestStep (s : State) : State :=
  { s with requests := s.right :: s.requests, phase := .fwait }

/-- The `FRESP` step on the unit's answer (R180): one application of `Ψ`, or `MixFault` with the unit's code. -/
def responseStep (a : MixAnswer) (s : State) : State :=
  match a with
  | .ok y =>
    { s with
      left := s.right
      right := halfXor s.left y
      rcnt := s.rcnt + 1
      phase := if s.rcnt + 1 = s.latch.reff then .store else .freq }
  | .fail code => raise .mixFault 0 { s with fcode := code }

/-- The `STORE` step (R181) of the given bytes as block `BCNT`. -/
def storeStep (b : Block) (s : State) : Res :=
  withinBuffer ((s.bcnt.toNat + 1) * Config.blockSize)
    (.next { storeObuf (s.bcnt.toNat * Config.blockSize) (blockBytes b) s with
      bcnt := s.bcnt + 1
      rcnt := 0
      phase := if s.bcnt + 1 = s.latch.nb.setWidth 32 then .finish else .load })

/-- `DST_LEN <- len; complete` (R182). -/
def finishWith (len : Nat) (s : State) : State :=
  complete { s with dstLen := BitVec.ofNat 32 len }

end Sys2Proof.Machine
end

