-- ==== Sys2Proof/Machine/Driver.lean ====
section
/-! DEFINITION. The meanings of `ENC` (R190) and `DEC` (R191), the two directions of `crypt`. -/

namespace Sys2Proof.Machine

/-- The acceptance of `ENC` (R190, R176): the capacity, then the round count; then the latches. -/
def acceptEnc (s : State) : State :=
  if Config.cap ≤ s.srcLen.toNat then raise .capacityExceeded s.srcLen (beginCommand .enc s)
  else if s.rounds = 0 then raise .invalidRoundCount 0 (beginCommand .enc s)
  else
    enterLoad s.rounds (padByte s.srcLen.toNat)
      (BitVec.ofNat 8 (s.srcLen.toNat / Config.blockSize + 1)) (beginCommand .enc s)

/-- `ENC` (R190): its acceptance while idle, then load, request, response, store per block, and finish. -/
def execEnc (s : State) : Res :=
  match s.phase with
  | .idle => .next (acceptEnc s)
  | .load => loadStep (encInput s) s
  | .freq => .next (requestStep s)
  | .fwait => .next (responseStep (mixFn s.mix s.right) s)
  | .store => storeStep (flipBlock (s.left, s.right)) s
  | .finish => .next (finishWith (s.latch.nb.toNat * Config.blockSize) s)
  | .exec => .fault .noStepInPhase

/-- The acceptance of `DEC` (R191, R176): the input length, the capacity, the round count; then the latches. -/
def acceptDec (s : State) : State :=
  if s.srcLen.toNat = 0 ∨ s.srcLen.toNat % Config.blockSize ≠ 0 then
    raise .invalidInputLength s.srcLen (beginCommand .dec s)
  else if Config.cap < s.srcLen.toNat then raise .capacityExceeded s.srcLen (beginCommand .dec s)
  else if s.rounds = 0 then raise .invalidRoundCount 0 (beginCommand .dec s)
  else
    enterLoad s.rounds 0 (BitVec.ofNat 8 (s.srcLen.toNat / Config.blockSize)) (beginCommand .dec s)

/-- The `FINISH` step of `DEC` (R182): the stored blocks are unpadded in place, or `PaddingError`. -/
def finishDec (s : State) : Res :=
  withinBuffer s.latch.n.toNat
    (match unpad (storedOutput s) with
     | .ok v => .next (finishWith v.length s)
     | .error m => .next (raise .paddingError (m.setWidth 32) s))

/-- `DEC` (R191): its acceptance while idle, then the same steps per block as `ENC`, and its own finish. -/
def execDec (s : State) : Res :=
  match s.phase with
  | .idle => .next (acceptDec s)
  | .load => loadStep (decInput s) s
  | .freq => .next (requestStep s)
  | .fwait => .next (responseStep (mixFn s.mix s.right) s)
  | .store => storeStep (flipBlock (s.left, s.right)) s
  | .finish => finishDec s
  | .exec => .fault .noStepInPhase

end Sys2Proof.Machine
end

