-- ==== Sys2Proof/Machine/Flip.lean ====
section
/-! DEFINITION. The meaning of `FLIP` (R143). -/

namespace Sys2Proof.Machine

/-- The acceptance of `FLIP` (R143, R176): an odd length is refused first, then the capacity. -/
def acceptFlip (s : State) : State :=
  if s.srcLen.toNat % 2 = 1 then raise .invalidBlockLength s.srcLen (beginCommand .flip s)
  else if Config.cap < s.srcLen.toNat then raise .capacityExceeded s.srcLen (beginCommand .flip s)
  else enterExec (beginCommand .flip s)

/-- `FLIP` (R143): its acceptance while idle, then its `EXEC` step. An odd latched length, which acceptance excludes,
ends in the error R142 names for an odd `SRC_LEN` (log 20). -/
def execFlip (s : State) : Res :=
  match s.phase with
  | .idle => .next (acceptFlip s)
  | .exec =>
    match flipSeq (operandA s) with
    | some v => putResult v s
    | none => .next (raise .invalidBlockLength s.latch.n s)
  | .load | .freq | .fwait | .store | .finish => .fault .noStepInPhase

end Sys2Proof.Machine
end

