-- ==== Sys2Proof/Machine/Padding.lean ====
section
/-! DEFINITION. The meanings of `PAD` (R155) and `UNPAD` (R156). -/

namespace Sys2Proof.Machine

/-- The acceptance of `PAD` (R155, R158, R176). -/
def acceptPad (s : State) : State :=
  if Config.cap ≤ s.srcLen.toNat then raise .capacityExceeded s.srcLen (beginCommand .pad s)
  else enterExec (beginCommand .pad s)

/-- `PAD` (R155): its acceptance while idle, then its `EXEC` step. -/
def execPad (s : State) : Res :=
  match s.phase with
  | .idle => .next (acceptPad s)
  | .exec => putResult (pad (operandA s)) s
  | .load | .freq | .fwait | .store | .finish => .fault .noStepInPhase

/-- The acceptance of `UNPAD` (R156, R176). -/
def acceptUnpad (s : State) : State :=
  if Config.cap < s.srcLen.toNat then raise .capacityExceeded s.srcLen (beginCommand .unpad s)
  else enterExec (beginCommand .unpad s)

/-- `UNPAD` (R156): its acceptance while idle, then its `EXEC` step, which may end in `PaddingError`. -/
def execUnpad (s : State) : Res :=
  match s.phase with
  | .idle => .next (acceptUnpad s)
  | .exec =>
    withinBuffer s.latch.n.toNat
      (match unpad (operandA s) with
       | .ok v => putResult v s
       | .error m => .next (raise .paddingError (m.setWidth 32) s))
  | .load | .freq | .fwait | .store | .finish => .fault .noStepInPhase

end Sys2Proof.Machine
end

