-- ==== Sys2Proof/Machine/Round.lean ====
section
/-! DEFINITION. The meaning of `ROUND` (R130). -/

namespace Sys2Proof.Machine

/-- The acceptance of `ROUND` (R130, R176): the length must be even and `B`. -/
def acceptRound (s : State) : State :=
  if s.srcLen.toNat % 2 = 1 ∨ s.srcLen.toNat ≠ Config.blockSize then
    raise .invalidBlockLength s.srcLen (beginCommand .round s)
  else enterLoad 1 0 1 (beginCommand .round s)

/-- `ROUND` (R130): its acceptance while idle, then the steps of one block with one round and no flip. -/
def execRound (s : State) : Res :=
  match s.phase with
  | .idle => .next (acceptRound s)
  | .load => loadStep (roundInput s) s
  | .freq => .next (requestStep s)
  | .fwait => .next (responseStep (mixFn s.mix s.right) s)
  | .store => storeStep (s.left, s.right) s
  | .finish => .next (finishWith Config.blockSize s)
  | .exec => .fault .noStepInPhase

end Sys2Proof.Machine
end

