-- ==== Sys2Proof/Machine/System.lean ====
section
/-! DEFINITION. The meaning of `RST` (R210). -/

namespace Sys2Proof.Machine

/-- `RST` (R210): the whole command is inside the acceptance step (R176), so it has no step in another phase. -/
def execRst (s : State) : Res :=
  match s.phase with
  | .idle => .next (softReset (acceptClear s))
  | .exec | .load | .freq | .fwait | .store | .finish => .fault .noStepInPhase

end Sys2Proof.Machine
end

