-- ==== Sys2Proof/Machine/Xor.lean ====
section
/-! DEFINITION. The meaning of `XOR` (R113). -/

namespace Sys2Proof.Machine

/-- The acceptance of `XOR` (R113, R176): the length check first, then the capacity. -/
def acceptXor (s : State) : State :=
  if s.srcLen ≠ s.src2Len then raise .lengthMismatch s.src2Len (beginCommand .xor s)
  else if Config.cap < s.srcLen.toNat then raise .capacityExceeded s.srcLen (beginCommand .xor s)
  else enterExec (beginCommand .xor s)

/-- `XOR` (R113): its acceptance while idle, then its `EXEC` step. Unequal lengths never truncate (R114). -/
def execXor (s : State) : Res :=
  match s.phase with
  | .idle => .next (acceptXor s)
  | .exec =>
    match xorSeq (operandA s) (operandB s) with
    | some c => putResult c s
    | none => .next (raise .lengthMismatch s.latch.n2 s)
  | .load | .freq | .fwait | .store | .finish => .fault .noStepInPhase

end Sys2Proof.Machine
end

