-- ==== Sys2Proof/Machine/Dispatch.lean ====
section
/-! DEFINITION. One step of each command (R113, R130, R143, R155, R156, R190, R191, R210): its acceptance
while the engine is idle, the engine's step of the phase otherwise (log 5). -/

namespace Sys2Proof.Machine

/-- One step of command `i`. -/
def exec (i : Instr) (s : State) : Host.Outcome State Fault Refusal :=
  match i with
  | .xor => Sys2Proof.Machine.execXor s
  | .round => Sys2Proof.Machine.execRound s
  | .flip => Sys2Proof.Machine.execFlip s
  | .pad => Sys2Proof.Machine.execPad s
  | .unpad => Sys2Proof.Machine.execUnpad s
  | .enc => Sys2Proof.Machine.execEnc s
  | .dec => Sys2Proof.Machine.execDec s
  | .rst => Sys2Proof.Machine.execRst s

end Sys2Proof.Machine
end

