-- ==== Sys2Proof/Machine/HostPort.lean ====
section
/-! DEFINITION. The host port: which accesses are legal and what they reach (R60 to R62, R66), register
reads and writes (R27 to R41), buffer accesses and their byte order (R61, R65), and what a command in
progress does to them (R70, R71). -/

namespace Sys2Proof.Machine

/-- The register at a word number of the register region (R27). -/
def regAt : Nat → Option Reg
  | 0 => some .ctrl
  | 1 => some .status
  | 2 => some .cmd
  | 3 => some .rounds
  | 4 => some .srcLen
  | 5 => some .src2Len
  | 6 => some .dstLen
  | 7 => some .rcnt
  | 8 => some .bcnt
  | 9 => some .errinfo
  | 10 => some .ferr
  | 11 => some .id
  | 12 => some .capr
  | _ => none

/-- The byte offset of a register (R27). -/
def regOffset : Reg → Nat
  | .ctrl => 0x00
  | .status => 0x04
  | .cmd => 0x08
  | .rounds => 0x0C
  | .srcLen => 0x10
  | .src2Len => 0x14
  | .dstLen => 0x18
  | .rcnt => 0x1C
  | .bcnt => 0x20
  | .errinfo => 0x24
  | .ferr => 0x28
  | .id => 0x2C
  | .capr => 0x30

/-- The buffer byte at an offset of 0x1000 or more (R60, R61). -/
def bufTarget (a : Nat) : Target :=
  if a < 0x2000 then .buf .ibuf (a - 0x1000)
  else if a < 0x3000 then .buf .xbuf (a - 0x2000)
  else .buf .obuf (a - 0x3000)

/-- What a host access of a size reaches; none for an access that is not a legal combination (R62, R66 (a) to (c)). -/
def target (addr : BitVec 14) (size : Size) : Option Target :=
  let a := addr.toNat
  match size with
  | .byte => if a < 0x1000 then none else some (bufTarget a)
  | .word =>
    if a % 4 ≠ 0 then none
    else if a < 0x1000 then (regAt (a / 4)).map Target.reg
    else some (bufTarget a)

/-- The constant `ID`: `IFVER`, seven reserved zeros, `PADV`, `BLKSZ` (R37). -/
def idWord : Word :=
  (Config.interfaceVersion ++ (0 : BitVec 7) ++ BitVec.ofBool Config.padValidate ++
    BitVec.ofNat 8 Config.blockSize).cast (by decide)

/-- The 32-bit value a register reads as (R28 to R40, R63). -/
def regRead (r : Reg) (s : State) : Word :=
  match r with
  | .ctrl => (BitVec.ofBool s.ie).setWidth 32
  | .status => statusWord s
  | .cmd => 0
  | .rounds => s.rounds
  | .srcLen => s.srcLen
  | .src2Len => s.src2Len
  | .dstLen => s.dstLen
  | .rcnt => s.rcnt
  | .bcnt => s.bcnt
  | .errinfo => s.errinfo
  | .ferr => s.fcode.setWidth 32
  | .id => idWord
  | .capr => BitVec.ofNat 32 Config.cap

/-- The effect of a host write to a register other than `CMD` while idle (R28 to R41, R64). -/
def regWrite (r : Reg) (v : Word) (s : State) : State :=
  match r with
  | .ctrl => { s with ie := v.getLsbD 0 }
  | .status => clearStatus v s
  | .rounds => { s with rounds := v }
  | .srcLen => { s with srcLen := v }
  | .src2Len => { s with src2Len := v }
  | .cmd | .dstLen | .rcnt | .bcnt | .errinfo | .ferr | .id | .capr => s

/-- Four bytes as one word, the lowest index least significant (R65). -/
def wordOfBytes (b0 b1 b2 b3 : Byte) : Word := (b3 ++ b2 ++ b1 ++ b0).cast (by decide)

/-- Byte lane `j` of a word (R65). -/
def wordByte (v : Word) (j : Nat) : Byte := v.extractLsb' (8 * j) 8

/-- Whether `OBUF[i]` is defined for the host: idle, and below `DST_LEN` (R71, R72). After an error, a reset
or `RST`, `DST_LEN` is 0. -/
def obufDefined (s : State) (i : Nat) : Bool := !busy s && decide (i < s.dstLen.toNat)

/-- The byte a host read sees: an undefined byte of `OBUF` is the fresh free value number `k` (R69, R71, R72, U4). -/
def hostByte (b : Buf) (s : State) (k i : Nat) : Byte :=
  if b = .obuf ∧ obufDefined s i = false then Config.freeBits 8 k else bufByte b s i

/-- The word a host read sees, its lanes drawn separately where they are undefined (R65, R71). -/
def hostWord (b : Buf) (s : State) (k i : Nat) : Word :=
  wordOfBytes (hostByte b s k i) (hostByte b s (k + 1) (i + 1)) (hostByte b s (k + 2) (i + 2))
    (hostByte b s (k + 3) (i + 3))

/-- The response of the host port is given. -/
def reply (r : Reply) (s : State) : State := { s with replies := r :: s.replies }

/-- A host read (R63, R66): a response and, for `OBUF`, free values used up; no other change (R69). -/
def hostRead (addr : BitVec 14) (size : Size) (s : State) : State :=
  match target addr size, size with
  | none, _ => reply .error s
  | some (.reg r), _ => reply (.word (regRead r s)) s
  | some (.buf b i), .byte =>
    reply (.byte (hostByte b s s.draws i)) { s with draws := s.draws + (if b = .obuf then 1 else 0) }
  | some (.buf b i), .word =>
    reply (.word (hostWord b s s.draws i)) { s with draws := s.draws + (if b = .obuf then 4 else 0) }

/-- `IBUF` or `XBUF` written from an index on; `OBUF` is not the host's to write (R64, R66). -/
def bufWrite (b : Buf) (i : Nat) (v : List Byte) (s : State) : State :=
  match b with
  | .ibuf => { s with ibuf := memPutSeq s.ibuf i v }
  | .xbuf => { s with xbuf := memPutSeq s.xbuf i v }
  | .obuf => s

/-- The bytes of a buffer write, lowest index first (R65). -/
def writeBytes : WriteData → List Byte
  | .byte v => [v]
  | .word v => [wordByte v 0, wordByte v 1, wordByte v 2, wordByte v 3]

/-- The size of a write (R62). -/
def writeSize : WriteData → Size
  | .byte _ => .byte
  | .word _ => .word

/-- The 32-bit value of a register write; registers take no other size (R62). -/
def writeWord : WriteData → Word
  | .byte v => v.setWidth 32
  | .word v => v

/-- What a host write does at the port: an illegal one, or one to `OBUF`, is an error and changes nothing (R66);
while busy a legal one is dropped and sets `WRBUSY` (R70); while idle it takes effect (R64), and a write to
`CMD` also yields the command word to accept (R30). -/
def hostWrite (addr : BitVec 14) (data : WriteData) (s : State) : State × Option Word :=
  match target addr (writeSize data) with
  | none => (reply .error s, none)
  | some (.buf .obuf _) => (reply .error s, none)
  | some t =>
    if busy s then (reply .ok { s with wrbusy := true }, none)
    else
      match t with
      | .reg .cmd => (reply .ok s, some (writeWord data))
      | .reg r => (reply .ok (regWrite r (writeWord data) s), none)
      | .buf b i => (reply .ok (bufWrite b i (writeBytes data) s), none)

end Sys2Proof.Machine
end

