-- ==== Sys2Proof/Machine/Turn.lean ====
section
/-! DEFINITION. Who moves and what they do (R13): the acceptance of a written command word (R176), the
engine's and the unit's turn (R177 to R183, R123), and the environment's events (R45). -/

namespace Sys2Proof.Machine

/-- The acceptance of the word `w` written to `CMD` while idle (R176): the command's own acceptance, or
`IllegalCommand(w)` after the clearing (R94, R231). -/
def startCommand (w : Word) (s : State) : Res :=
  match decode w with
  | .ok i => exec i s
  | .error _ => .next (raise .illegalCommand w (acceptClear s))

/-- One step of the command in progress, which the latch `OP` names (R43, R177). -/
def runLatched (s : State) : Res :=
  match decode (s.latch.op.setWidth 32) with
  | .ok i => exec i s
  | .error _ => .fault .latchNotACommand

/-- A turn of the engine (R186): none in IDLE; in FWAIT the unit answers, if it answers of itself (R123, R272). -/
def turn (s : State) : Res :=
  match s.phase with
  | .idle => .next s
  | .fwait => if s.mix.answering then runLatched s else .next s
  | .exec | .load | .freq | .store | .finish => runLatched s

/-- Whether port bits carry a given answer: with `ok` the data count, without it the code (R123). -/
def carries (m : MixResponse) (a : MixAnswer) : Bool :=
  match a with
  | .ok y => m.ok && halfOfBits m.data == y
  | .fail code => !m.ok && m.code == code

/-- A response of the unit (R123): outside FWAIT ignored; in FWAIT the `FRESP` step, if it is `F(x)` (U15). -/
def takeResponse (m : MixResponse) (s : State) : Res :=
  match s.phase with
  | .fwait =>
    if carries m (mixFn s.mix s.right) then runLatched s else .refused .responseNotTheAnswer
  | .idle | .exec | .load | .freq | .store | .finish => .next s

/-- The platform attaches a unit (R265): any, between commands; none during one (R124, U7). -/
def attachUnit (u : MixUnit) (s : State) : Res :=
  if busy s then .refused .mixChangedDuringCommand else .next { s with mix := u }

/-- The pseudo-instruction `wait` (R97): a read of `STATUS`, repeated while it shows `BUSY`, with a turn for
the engine between two reads (log 16). -/
def waitStep (s : State) : State :=
  { hostRead 0x4 .word s with events := if busy s then .turn :: .wait :: s.events else s.events }

/-- What one event does, its entry taken off the list before. -/
def takeEvent (e : Event) (s : State) : Res :=
  match e with
  | .read addr size => .next (hostRead addr size s)
  | .write addr data =>
    match hostWrite addr data s with
    | (s', none) => .next s'
    | (s', some w) => startCommand w s'
  | .wait => .next (waitStep s)
  | .turn => turn s
  | .response m => takeResponse m s
  | .attach u => attachUnit u s
  | .hardReset => .next (hardReset s)

/-- The next step of the machine: the environment's next event, or a turn where it has none (log 2, 3). -/
def nextStep (s : State) : Res :=
  match s.events with
  | [] => turn s
  | e :: rest => takeEvent e { s with events := rest }

/-- The event in which the host writes `w` to `CMD` (R30). -/
def commandWrite (w : Word) : Event := .write 0x8 (.word w)

end Sys2Proof.Machine
end

