-- ==== Sys2Proof/Machine/Step.lean ====
section
/-! DEFINITION. The step of the machine, and the placing of an instruction where it is fetched (log 4). -/

namespace Sys2Proof.Machine

/-- One step: the environment's next event, or a turn of the engine. -/
def step (s : State) : Host.Outcome State Fault Refusal := nextStep s

/-- `s` with the command whose bits are `w` as what the host writes to `CMD` next, the engine idle so that the
write is an acceptance (R30, R79). -/
def State.withFetchWord (s : State) (_nbits w : Nat) : State :=
  { s with phase := .idle, events := commandWrite (BitVec.ofNat 32 w) :: s.events }

end Sys2Proof.Machine
end

