-- ==== Sys2Proof/Machine/Script.lean ====
section
/-! DEFINITION. The host script (R96) and its pseudo-instructions (R97): each line as the host accesses it
stands for, what its assertions say of the reads, and when a run of it has ended and in what (R284). -/

namespace Sys2Proof.Machine

/-- A line of a host script (R96, R97). `expect` is an assertion, not an access. -/
inductive Line where
  | wr (r : Reg) (v : Word)
  | rd (r : Reg)
  | wrb (b : Buf) (i : Nat) (v : Byte)
  | wrw (b : Buf) (i : Nat) (v : Word)
  | rdb (b : Buf) (i : Nat)
  | rdw (b : Buf) (i : Nat)
  | cmd (i : Instr)
  | crypt (d : BitVec 1)
  | setr (r : Word)
  | setlen (n : Word)
  | load (b : Buf) (bytes : List Byte)
  | wait
  | ack
  | expectReg (r : Reg) (v : Word)
  | expectBuf (b : Buf) (start : Nat) (bytes : List Byte)
  deriving DecidableEq, Repr

/-- The offset of a register as an access carries it. -/
def regAddr (r : Reg) : BitVec 14 := BitVec.ofNat 14 (regOffset r)

/-- The offset of `BUF[i]` as an access carries it. It is the byte's own below `CAP`, and no line reaches past it
(log 22). -/
def bufAddr (b : Buf) (i : Nat) : BitVec 14 := BitVec.ofNat 14 (bufBase b + i)

/-- The byte writes of `load BUF, h` from an index on (R97). -/
def loadEvents (b : Buf) : Nat → List Byte → List Event
  | _, [] => []
  | i, v :: vs => .write (bufAddr b i) (.byte v) :: loadEvents b (i + 1) vs

/-- The domain of R96 and R97: a byte that exists, a word at an index that is a multiple of 4, a range that exists. -/
def lineWellFormed : Line → Bool
  | .wrb _ i _ | .rdb _ i => i < Config.cap
  | .wrw _ i _ | .rdw _ i => i < Config.cap && i % 4 == 0
  | .load _ bytes => bytes.length ≤ Config.cap
  | .expectBuf _ start bytes => start + bytes.length ≤ Config.cap
  | .wr _ _ | .rd _ | .cmd _ | .crypt _ | .setr _ | .setlen _ | .wait | .ack | .expectReg _ _ => true

/-- The accesses R96 writes beside a line, a pseudo-instruction expanded (R97). -/
def lineAccesses : Line → List Event
  | .wr r v => [.write (regAddr r) (.word v)]
  | .rd r => [.read (regAddr r) .word]
  | .wrb b i v => [.write (bufAddr b i) (.byte v)]
  | .wrw b i v => [.write (bufAddr b i) (.word v)]
  | .rdb b i => [.read (bufAddr b i) .byte]
  | .rdw b i => [.read (bufAddr b i) .word]
  | .cmd i => [.write (regAddr .cmd) (.word (encode i))]
  | .crypt d => [.write (regAddr .cmd) (.word (0x06 + 0x10 * d.setWidth 32))]
  | .setr r => [.write (regAddr .rounds) (.word r)]
  | .setlen n => [.write (regAddr .srcLen) (.word n)]
  | .load b bytes => loadEvents b 0 bytes
  | .wait => [.wait]
  | .ack => [.write (regAddr .status) (.word 0x2)]
  | .expectReg _ _ => []
  | .expectBuf _ _ _ => []

/-- The accesses of a line. What is outside the domain of R96 is no line of a script and makes no access (DESIGN CHOICE,
log 22). -/
def lineEvents (l : Line) : List Event := if lineWellFormed l then lineAccesses l else []

/-- The accesses of a script, in order (R96). -/
def scriptEvents (ls : List Line) : List Event := ls.flatMap lineEvents

/-- What a host read returned: its address and the response. -/
structure Seen where
  addr : BitVec 14
  answer : Reply
  deriving DecidableEq, Repr

/-- The response that ends a `wait`, the first that shows `BUSY = 0`, and the responses after it (R97). -/
def waitAnswer : List Reply → Option (Reply × List Reply)
  | .word w :: rs => if w.getLsbD 0 then waitAnswer rs else some (.word w, rs)
  | _ => none

/-- The reads among the given accesses with what they returned, newest first, put before those seen already, and the
responses left over. The responses come oldest first, one for each access; a `wait` takes all of its own. None where
the responses run out, or a `wait` still reads `BUSY`: the run has not got past these accesses. -/
def seenOf : List Event → List Reply → List Seen → Option (List Seen × List Reply)
  | [], rs, seen => some (seen, rs)
  | .read addr _ :: es, r :: rs, seen => seenOf es rs (⟨addr, r⟩ :: seen)
  | .write _ _ :: es, _ :: rs, seen => seenOf es rs seen
  | .wait :: es, rs, seen =>
    match waitAnswer rs with
    | some (r, rs') => seenOf es rs' (⟨regAddr .status, r⟩ :: seen)
    | none => none
  | _ :: _, _, _ => none

/-- What the latest read of a register returned. -/
def registerSeen (r : Reg) (seen : List Seen) : Option Word :=
  seen.findSome? fun x =>
    match x.answer with
    | .word w => if x.addr = regAddr r then some w else none
    | .byte _ | .ok | .error => none

/-- The byte a read returned of an offset, if it covers it: as a byte, or in its lane of a word (R65). -/
def seenByte (offset : Nat) (x : Seen) : Option Byte :=
  match x.answer with
  | .byte v => if x.addr.toNat = offset then some v else none
  | .word w =>
    if x.addr.toNat ≤ offset ∧ offset < x.addr.toNat + 4 then some (wordByte w (offset - x.addr.toNat))
    else none
  | .ok | .error => none

/-- What the latest read of `BUF[i]` returned. -/
def bufferSeen (b : Buf) (i : Nat) (seen : List Seen) : Option Byte :=
  seen.findSome? (seenByte (bufBase b + i))

/-- What an `expect` line asserts of the values the preceding reads returned (R97): of each location the latest, and
where none has been read the assertion does not hold (DESIGN CHOICE, log 19). The other lines assert nothing. -/
def expectHolds (seen : List Seen) : Line → Bool
  | .expectReg r v => registerSeen r seen == some v
  | .expectBuf b start bytes =>
    ((List.range bytes.length).map fun j => bufferSeen b (start + j) seen) == bytes.map some
  | _ => true

/-- Every line of a script is one (log 22) and has been answered, and every `expect` line holds of what the reads before
it returned; the responses oldest first. A script whose run has not reached its last line asserts nothing that holds
yet (DESIGN CHOICE, log 21). -/
def scriptHolds : List Line → List Reply → List Seen → Bool
  | [], _, _ => true
  | l :: ls, rs, seen =>
    lineWellFormed l && expectHolds seen l &&
      match seenOf (lineEvents l) rs seen with
      | some (seen', rs') => scriptHolds ls rs' seen'
      | none => false

/-- The responses the host port has given between two states of a run, oldest first. -/
def repliesBetween (s t : State) : List Reply :=
  (t.replies.take (t.replies.length - s.replies.length)).reverse

/-- The assertions of a script, run from `s` to `t` (R97). Whether the run has ended is `scriptEnded`. -/
def scriptAsserts (ls : List Line) (s t : State) : Bool := scriptHolds ls (repliesBetween s t) []

/-- Every line of a script, run from `s` to `t`, is one (log 22) and has been executed: an access is executed in the step
that answers it (R67), a `wait` when it reads `BUSY = 0` (R97). -/
def scriptExecuted (ls : List Line) (s t : State) : Bool :=
  ls.all lineWellFormed && (seenOf (scriptEvents ls) (repliesBetween s t) []).isSome

/-- A host script, run from `s` to `t`, has ended: its last line has been executed and `STATUS.BUSY = 0` (R284). -/
def scriptEnded (ls : List Line) (s t : State) : Bool := scriptExecuted ls s t && !busy t

/-- All registers, in the order of their offsets (R27). -/
def allRegs : List Reg :=
  [.ctrl, .status, .cmd, .rounds, .srcLen, .src2Len, .dstLen, .rcnt, .bcnt, .errinfo, .ferr, .id, .capr]

/-- The end state of a run (R284): it says nothing of `OBUF` beyond `DST_LEN`, of `L`, `R`, the latches, or of how many
steps the run took. -/
structure EndState where
  /-- the value of every register -/
  registers : List (Reg × Word)
  /-- `OBUF[0:DST_LEN]` -/
  result : List Byte
  /-- the bytes of `IBUF` -/
  ibuf : List Byte
  /-- the bytes of `XBUF` -/
  xbuf : List Byte
  deriving DecidableEq, Repr

/-- The values R284 takes from a state. -/
def endState (t : State) : EndState where
  registers := allRegs.map fun r => (r, regRead r t)
  result := bufSlice .obuf t 0 t.dstLen.toNat
  ibuf := bufSlice .ibuf t 0 Config.cap
  xbuf := bufSlice .xbuf t 0 Config.cap

/-- The end state of a script run from `s` to `t`, once it has ended (R284). -/
def scriptEndState (ls : List Line) (s t : State) : Option EndState :=
  if scriptEnded ls s t then some (endState t) else none

end Sys2Proof.Machine
end

