-- ==== Sys2Proof/Safety.lean ====
section
/-! DEFINITION. The terms claims are made in: runs of several steps, the command in progress, and the
invariant of the machine (R24, R29, R34, R36, R43, R73, R174). -/

namespace Sys2Proof.Machine

/-- `k` steps of the machine, ending early at a fault or a refusal. -/
def stepMany : Nat → State → Res
  | 0, s => .next s
  | k + 1, s =>
    match step s with
    | .next t => stepMany k t
    | .fault f => .fault f
    | .refused r => .refused r

/-- The environment does nothing more, and the mixing-function unit answers of itself (R123, R186). -/
def Undisturbed (s : State) : Prop := s.events = [] ∧ s.mix.answering = true

/-- The command the latch `OP` names (R43). -/
def latchedCommand (s : State) : Option Instr :=
  match decode (s.latch.op.setWidth 32) with
  | .ok i => some i
  | .error _ => none

/-- The buffers are in canonical form (R42). -/
def BuffersOk (s : State) : Prop :=
  Memory.wf s.ibuf = true ∧ Memory.wf s.xbuf = true ∧ Memory.wf s.obuf = true

/-- What `STATUS` and the error registers say fits together (R29, R34, R39, R40, U16). -/
structure ReportOk (s : State) : Prop where
  code_range : s.errcode.toNat ≤ 8
  no_error : s.err = false → s.errcode = 0 ∧ s.errinfo = 0 ∧ s.fcode = 0
  an_error : s.err = true → s.errcode ≠ 0 ∧ s.estk = true ∧ s.dstLen = 0
  unit_code : s.fcode ≠ 0 → s.errcode = errorCode .mixFault
  while_busy : busy s = true → s.done = false ∧ s.err = false ∧ s.dstLen = 0
  length_range : s.dstLen.toNat ≤ Config.cap

/-- The latches of a command in progress hold its operands as acceptance left them (R43, R70). -/
def OperandsLatched (s : State) : Prop := s.latch.n = s.srcLen ∧ s.latch.n2 = s.src2Len

/-- What the acceptance checks of the commands with an `EXEC` step leave of the latches (R113, R143, R155, R156). -/
def ExecLatchesOk (s : State) : Prop :=
  match latchedCommand s with
  | some .xor => s.latch.n = s.latch.n2 ∧ s.latch.n.toNat ≤ Config.cap
  | some .flip => s.latch.n.toNat % 2 = 0 ∧ s.latch.n.toNat ≤ Config.cap
  | some .pad => s.latch.n.toNat < Config.cap
  | some .unpad => s.latch.n.toNat ≤ Config.cap
  | _ => False

/-- What the acceptance checks of the commands on blocks leave of the latches (R130, R174, R190, R191). -/
def BlockLatchesOk (s : State) : Prop :=
  match latchedCommand s with
  | some .round =>
    s.latch.n.toNat = Config.blockSize ∧ s.latch.reff = 1 ∧ s.latch.m = 0 ∧ s.latch.nb = 1
  | some .enc =>
    s.latch.n.toNat < Config.cap ∧ s.latch.reff = s.rounds ∧ s.rounds ≠ 0 ∧
      s.latch.m = padByte s.latch.n.toNat ∧
      s.latch.nb.toNat = s.latch.n.toNat / Config.blockSize + 1
  | some .dec =>
    s.latch.n.toNat ≠ 0 ∧ s.latch.n.toNat % Config.blockSize = 0 ∧
      s.latch.n.toNat ≤ Config.cap ∧ s.latch.reff = s.rounds ∧ s.rounds ≠ 0 ∧ s.latch.m = 0 ∧
      s.latch.nb.toNat = s.latch.n.toNat / Config.blockSize
  | _ => False

/-- Where the sequencer is, with what the rules say of the counters there (R24, R178 to R182). -/
def PositionOk (s : State) : Prop :=
  match s.phase with
  | .idle => s.bcnt.toNat ≤ Config.cap / Config.blockSize
  | .exec => OperandsLatched s ∧ ExecLatchesOk s ∧ s.bcnt = 0 ∧ s.rcnt = 0
  | .load =>
    OperandsLatched s ∧ BlockLatchesOk s ∧ s.bcnt.toNat < s.latch.nb.toNat ∧ s.rcnt = 0
  | .freq =>
    OperandsLatched s ∧ BlockLatchesOk s ∧ s.bcnt.toNat < s.latch.nb.toNat ∧
      s.rcnt.toNat < s.latch.reff.toNat
  | .fwait =>
    OperandsLatched s ∧ BlockLatchesOk s ∧ s.bcnt.toNat < s.latch.nb.toNat ∧
      s.rcnt.toNat < s.latch.reff.toNat ∧ s.requests.head? = some s.right
  | .store =>
    OperandsLatched s ∧ BlockLatchesOk s ∧ s.bcnt.toNat < s.latch.nb.toNat ∧
      s.rcnt = s.latch.reff
  | .finish =>
    OperandsLatched s ∧ BlockLatchesOk s ∧ s.bcnt.toNat = s.latch.nb.toNat ∧ s.rcnt = 0

/-- The invariant of the machine. -/
structure Inv (s : State) : Prop where
  buffers : BuffersOk s
  report : ReportOk s
  position : PositionOk s

/-- `F` answers every half with a value: the mixing function is total (R120). -/
def Total (f : MixFn) : Prop := ∀ x, ∃ y, f x = .ok y

/-- `IBUF[0:SRC_LEN]`, the operand the host placed (R32). -/
def hostOperand (s : State) : List Byte := bufSlice .ibuf s 0 s.srcLen.toNat

/-- `OBUF[0:DST_LEN]`, the result (R12, R34). -/
def hostResult (s : State) : List Byte := bufSlice .obuf s 0 s.dstLen.toNat

/-- The last command has completed without error (R29, R183). -/
def Succeeded (s : State) : Prop := s.phase = .idle ∧ s.done = true ∧ s.err = false ∧ s.errcode = 0

/-- The state `s` in which the host writes the word `w` to `CMD` next, and does nothing more. -/
def submit (w : Word) (s : State) : State := { s with events := [commandWrite w] }

/-- `s` after command `i` was accepted past its checks, with the latches and the phase R176 gives it. -/
def acceptedState (i : Instr) (reff : Word) (m : Byte) (nb : BitVec 8) (ph : Phase) (s : State) : State :=
  { s with
    done := false, err := false, errcode := 0, errinfo := 0, fcode := 0, dstLen := 0, rcnt := 0, bcnt := 0
    latch := ⟨(encode i).extractLsb' 0 5, s.srcLen, s.src2Len, reff, m, nb⟩
    phase := ph }

/-- `s` after the acceptance of a command ended in the error with the given code and detail (R176, R236). The latches
are then `l`, of which a claim says nothing (U12). -/
def rejectedState (l : Latches) (code : Byte) (info : Word) (s : State) : State :=
  { s with
    done := true, err := true, estk := true, errcode := code, errinfo := info
    fcode := 0, dstLen := 0, rcnt := 0, bcnt := 0
    latch := l, phase := .idle }

/-- `s` after a step of its command ended in the error with the given code and detail (R236). -/
def failedState (code : Byte) (info : Word) (s : State) : State :=
  { s with
    done := true, err := true, estk := true, errcode := code, errinfo := info, dstLen := 0
    phase := .idle }

/-- `t` is `s` after a successful `EXEC` step with a result of `len` bytes: nothing else changed (R177, R183). -/
def ExecCompleted (len : Nat) (s t : State) : Prop :=
  t = { s with obuf := t.obuf, dstLen := BitVec.ofNat 32 len, done := true, phase := .idle }

/-- The padding of the first `n` bytes of `IBUF` with last byte `m` is malformed (R153). -/
def MalformedPadding (s : State) (n m : Nat) : Prop :=
  m = 0 ∨ 32 < m ∨ n < m ∨ ∃ j, n - m ≤ j ∧ j < n ∧ (bufByte .ibuf s j).toNat ≠ m

/-- The halves a block sends in `r` rounds, in order: `R_0, ..., R_{r-1}` (R170, R185). -/
def roundRequests (f : MixFn) : Nat → Block → List Half
  | 0, _ => []
  | r + 1, b =>
    match psiIter f r b with
    | .ok b' => roundRequests f r b ++ [b'.2]
    | .error _ => roundRequests f r b

/-- The halves the first `nb` blocks of `p` send, block by block (R185). -/
def blockRequests (f : MixFn) (r : Nat) (p : Nat → Byte) : Nat → List Half
  | 0 => []
  | nb + 1 => blockRequests f r p nb ++ roundRequests f r (blockAt p nb)

/-- `t` is `s` after a command on blocks has run undisturbed to its end: the operands, `CTRL`, `ROUNDS`, the
sticky flags and the environment as they were (R176 to R183). -/
def BlocksFrame (s t : State) : Prop :=
  t = { s with
    left := t.left, right := t.right, phase := .idle, bcnt := t.bcnt, rcnt := t.rcnt
    done := t.done, err := t.err, estk := t.estk, errcode := t.errcode, dstLen := t.dstLen
    errinfo := t.errinfo, fcode := t.fcode, obuf := t.obuf, latch := t.latch
    events := [], replies := .ok :: s.replies, requests := t.requests }

/-- A legal read of the host port (R62, R66): a register as an aligned word, a buffer as a byte or an aligned word. -/
def LegalRead (addr : BitVec 14) : Size → Prop
  | .byte => 0x1000 ≤ addr.toNat
  | .word => addr.toNat % 4 = 0 ∧ (addr.toNat < 0x34 ∨ 0x1000 ≤ addr.toNat)

/-- A legal write of the host port (R62, R64, R66): as a read, but not to `OBUF`. -/
def LegalWrite (addr : BitVec 14) (data : WriteData) : Prop :=
  LegalRead addr (writeSize data) ∧ addr.toNat < 0x3000

/-- The arcs of `PH` (R184), hard reset apart; a phase may also stay as it is while the host or nobody moves. -/
def PhaseArc : Phase → Phase → Prop
  | .idle, q => q = .idle ∨ q = .exec ∨ q = .load
  | .exec, q => q = .exec ∨ q = .idle
  | .load, q => q = .load ∨ q = .freq
  | .freq, q => q = .freq ∨ q = .fwait
  | .fwait, q => q = .fwait ∨ q = .freq ∨ q = .store ∨ q = .idle
  | .store, q => q = .store ∨ q = .load ∨ q = .finish
  | .finish, q => q = .finish ∨ q = .idle

/-- Two idle states agree on all that a command reads (R20): the configuration, `F`, and the operands
`IBUF[0:SRC_LEN]` and `XBUF[0:SRC2_LEN]`, as far as the buffers reach. -/
def SameOperands (s s' : State) : Prop :=
  s.rounds = s'.rounds ∧ s.srcLen = s'.srcLen ∧ s.src2Len = s'.src2Len ∧ s.mix = s'.mix ∧
    (∀ j, j < Config.cap → j < s.srcLen.toNat → bufByte .ibuf s j = bufByte .ibuf s' j) ∧
    ∀ j, j < Config.cap → j < s.src2Len.toNat → bufByte .xbuf s j = bufByte .xbuf s' j

/-- What a command ends in, as the host can see it (R12, R194). -/
def SameOutcome (t t' : State) : Prop :=
  hostResult t = hostResult t' ∧ t.dstLen = t'.dstLen ∧ t.err = t'.err ∧ t.errcode = t'.errcode ∧
    t.errinfo = t'.errinfo ∧ t.fcode = t'.fcode ∧ t.rcnt = t'.rcnt ∧ t.bcnt = t'.bcnt

end Sys2Proof.Machine
end

