-- ==== Sys2Proof/Certificates/Slice0/Obligations.lean ====
section
/-! DEFINITION. The statements for the provers, each from a numbered rule of spec/ or from several. -/

open Sys2Proof Sys2Proof.Machine

/-! ### Decoding and fetching -/

/-- R93: exactly the eight words of R92 decode to a command, each to its own; and they are the words `encode` writes. -/
def Obligations.DecodeAcceptsExactlyTheEncodings : Prop :=
  ∀ (w : Word) (i : Instr),
    (decode w = .ok i ↔ w = encode i) ∧
    (decode w = .ok i ↔
      i = .xor ∧ w = 0x00000001 ∨ i = .round ∧ w = 0x00000002 ∨ i = .flip ∧ w = 0x00000003 ∨
      i = .pad ∧ w = 0x00000004 ∨ i = .unpad ∧ w = 0x00000005 ∨ i = .enc ∧ w = 0x00000006 ∨
      i = .dec ∧ w = 0x00000016 ∨ i = .rst ∧ w = 0x00000007)

/-- R92, R94: the eight words of the opcode map, and illegal words of every kind, refused by name. -/
def Obligations.CommandWordsDecode : Prop :=
  decode 0x00000001 = .ok .xor ∧ decode 0x00000002 = .ok .round ∧ decode 0x00000003 = .ok .flip ∧
  decode 0x00000004 = .ok .pad ∧ decode 0x00000005 = .ok .unpad ∧ decode 0x00000006 = .ok .enc ∧
  decode 0x00000016 = .ok .dec ∧ decode 0x00000007 = .ok .rst ∧
  decode 0x00000000 = .error .opcodeReserved ∧ decode 0x0000000F = .error .opcodeReserved ∧
  decode 0x00000011 = .error .directionNotAllowed ∧ decode 0x00000017 = .error .directionNotAllowed ∧
  decode 0x00000026 = .error .zeroFieldNotZero ∧ decode 0x80000006 = .error .zeroFieldNotZero

/-- R30, R176: the write of a command word to `CMD` while idle runs that command's acceptance, the port answering `ok`. -/
def Obligations.WrittenCommandRuns : Prop :=
  ∀ (s : State) (w : Word) (i : Instr) (rest : List Event),
    s.phase = .idle → s.events = .write 0x8 (.word w) :: rest → decode w = .ok i →
    step s = exec i { s with events := rest, replies := .ok :: s.replies }

/-- R177, R186: a turn while a command is in progress runs one step of the command the latch `OP` names; in FWAIT
the unit must answer. The turn is an entry of the environment's list, or comes when the list is empty (log 3). -/
def Obligations.LatchedCommandRuns : Prop :=
  ∀ (s : State) (i : Instr),
    s.phase ≠ .idle → (s.phase = .fwait → s.mix.answering = true) → latchedCommand s = some i →
    (s.events = [] ∨ ∃ rest, s.events = .turn :: rest) →
    step s = exec i { s with events := s.events.tail }

/-- R94, R231: an illegal word written to `CMD` while idle ends in `IllegalCommand` with `ERRINFO` = the word; beside
the report only what acceptance clears changes, and no latch. -/
def Obligations.IllegalWordEndsInIllegalCommand : Prop :=
  ∀ (s : State) (w : Word) (rest : List Event),
    s.phase = .idle → s.events = .write 0x8 (.word w) :: rest → (∀ i, w ≠ encode i) →
    step s = .next { s with
      done := true, err := true, estk := true, errcode := 6, errinfo := w
      fcode := 0, dstLen := 0, rcnt := 0, bcnt := 0
      events := rest, replies := .ok :: s.replies }

/-! ### The commands with one EXEC step -/

/-- R113: `XOR`, its acceptance with both checks in order, and its `EXEC` step. -/
def Obligations.XorCommand : Prop :=
  encode .xor = 0x00000001 ∧
  (∀ s : State, s.phase = .idle →
    ∃ l, exec .xor s = .next (
      if s.srcLen ≠ s.src2Len then rejectedState l 1 s.src2Len s
      else if 4096 < s.srcLen.toNat then rejectedState l 7 s.srcLen s
      else acceptedState .xor 0 0 0 .exec s)) ∧
  (∀ s : State, s.phase = .exec → s.latch.n = s.latch.n2 → s.latch.n.toNat ≤ 4096 →
    ∃ t, exec .xor s = .next t ∧ ExecCompleted s.latch.n.toNat s t ∧
      ∀ j, bufByte .obuf t j =
        if j < s.latch.n.toNat then bufByte .ibuf s j ^^^ bufByte .xbuf s j else bufByte .obuf s j)

/-- R143: `FLIP`, its acceptance with both checks in order, and its `EXEC` step. -/
def Obligations.FlipCommand : Prop :=
  encode .flip = 0x00000003 ∧
  (∀ s : State, s.phase = .idle →
    ∃ l, exec .flip s = .next (
      if s.srcLen.toNat % 2 = 1 then rejectedState l 2 s.srcLen s
      else if 4096 < s.srcLen.toNat then rejectedState l 7 s.srcLen s
      else acceptedState .flip 0 0 0 .exec s)) ∧
  (∀ s : State, s.phase = .exec → s.latch.n.toNat % 2 = 0 → s.latch.n.toNat ≤ 4096 →
    ∃ t, exec .flip s = .next t ∧ ExecCompleted s.latch.n.toNat s t ∧
      ∀ j, bufByte .obuf t j =
        if j < s.latch.n.toNat / 2 then bufByte .ibuf s (s.latch.n.toNat / 2 + j)
        else if j < s.latch.n.toNat then bufByte .ibuf s (j - s.latch.n.toNat / 2)
        else bufByte .obuf s j)

/-- R155: `PAD`, its acceptance with its check, and its `EXEC` step. -/
def Obligations.PadCommand : Prop :=
  encode .pad = 0x00000004 ∧
  (∀ s : State, s.phase = .idle →
    ∃ l, exec .pad s = .next (
      if 4096 ≤ s.srcLen.toNat then rejectedState l 7 s.srcLen s
      else acceptedState .pad 0 0 0 .exec s)) ∧
  (∀ (s : State) (m : Nat), s.phase = .exec → s.latch.n.toNat < 4096 → m = 32 - s.latch.n.toNat % 32 →
    ∃ t, exec .pad s = .next t ∧ ExecCompleted (s.latch.n.toNat + m) s t ∧
      ∀ j, bufByte .obuf t j =
        if j < s.latch.n.toNat then bufByte .ibuf s j
        else if j < s.latch.n.toNat + m then BitVec.ofNat 8 m
        else bufByte .obuf s j)

/-- R156: `UNPAD`, its acceptance with its check, and its `EXEC` step: empty in, empty out; malformed padding ends in
`PaddingError` with `ERRINFO` = the last byte; otherwise the last `m` bytes are stripped. -/
def Obligations.UnpadCommand : Prop :=
  encode .unpad = 0x00000005 ∧
  (∀ s : State, s.phase = .idle →
    ∃ l, exec .unpad s = .next (
      if 4096 < s.srcLen.toNat then rejectedState l 7 s.srcLen s
      else acceptedState .unpad 0 0 0 .exec s)) ∧
  (∀ s : State, s.phase = .exec → s.latch.n.toNat = 0 →
    exec .unpad s = .next { s with dstLen := 0, done := true, phase := .idle }) ∧
  (∀ (s : State) (m : Nat), s.phase = .exec → 0 < s.latch.n.toNat → s.latch.n.toNat ≤ 4096 →
    m = (bufByte .ibuf s (s.latch.n.toNat - 1)).toNat →
    (MalformedPadding s s.latch.n.toNat m →
      exec .unpad s = .next (failedState 4 (BitVec.ofNat 32 m) s)) ∧
    (¬ MalformedPadding s s.latch.n.toNat m →
      ∃ t, exec .unpad s = .next t ∧ ExecCompleted (s.latch.n.toNat - m) s t ∧
        ∀ j, bufByte .obuf t j =
          if j < s.latch.n.toNat - m then bufByte .ibuf s j else bufByte .obuf s j))

/-- R210: `RST`: every register at its reset value, the buffers and the environment as they were; `L`, `R` and the
latches are not said (free values, log 9). -/
def Obligations.RstCommand : Prop :=
  encode .rst = 0x00000007 ∧
  ∀ s : State, s.phase = .idle →
    ∃ t, exec .rst s = .next t ∧
      t = { s with
        phase := .idle, ie := false, done := false, err := false, estk := false, wrbusy := false
        errcode := 0, rounds := 32, srcLen := 0, src2Len := 0, dstLen := 0, rcnt := 0, bcnt := 0
        errinfo := 0, fcode := 0, left := t.left, right := t.right, latch := t.latch
        draws := t.draws }

/-! ### The acceptance of the commands on blocks -/

/-- R130, R227, R128: the acceptance of `ROUND`. -/
def Obligations.RoundAcceptance : Prop :=
  encode .round = 0x00000002 ∧
  ∀ s : State, s.phase = .idle →
    ∃ l, exec .round s = .next (
      if s.srcLen.toNat % 2 = 1 ∨ s.srcLen.toNat ≠ 32 then rejectedState l 2 s.srcLen s
      else acceptedState .round 1 0 1 .load s)

/-- R190, R191, R173: the acceptance of `ENC` and of `DEC`, the checks in order, then the latches. -/
def Obligations.CryptAcceptance : Prop :=
  encode .enc = 0x00000006 ∧ encode .dec = 0x00000016 ∧
  (∀ s : State, s.phase = .idle →
    ∃ l, exec .enc s = .next (
      if 4096 ≤ s.srcLen.toNat then rejectedState l 7 s.srcLen s
      else if s.rounds = 0 then rejectedState l 8 0 s
      else acceptedState .enc s.rounds (BitVec.ofNat 8 (32 - s.srcLen.toNat % 32))
        (BitVec.ofNat 8 (s.srcLen.toNat / 32 + 1)) .load s)) ∧
  (∀ s : State, s.phase = .idle →
    ∃ l, exec .dec s = .next (
      if s.srcLen.toNat = 0 ∨ s.srcLen.toNat % 32 ≠ 0 then rejectedState l 3 s.srcLen s
      else if 4096 < s.srcLen.toNat then rejectedState l 7 s.srcLen s
      else if s.rounds = 0 then rejectedState l 8 0 s
      else acceptedState .dec s.rounds 0 (BitVec.ofNat 8 (s.srcLen.toNat / 32)) .load s))

/-- R225 to R234: which error the acceptance of a command reports, for every command and every idle state; the codes
4, 5 and 6 are never among them. -/
def Obligations.AcceptanceErrorCodes : Prop :=
  ∀ (i : Instr) (s t : State) (n : Nat), s.phase = .idle → n = s.srcLen.toNat → exec i s = .next t →
    (t.errcode = 1 ↔ i = .xor ∧ s.srcLen ≠ s.src2Len) ∧
    (t.errcode = 2 ↔ (i = .round ∧ n ≠ 32) ∨ (i = .flip ∧ n % 2 = 1)) ∧
    (t.errcode = 3 ↔ i = .dec ∧ (n = 0 ∨ n % 32 ≠ 0)) ∧
    (t.errcode = 7 ↔
      4096 < n ∧ ((i = .xor ∧ s.srcLen = s.src2Len) ∨ (i = .flip ∧ n % 2 = 0) ∨ i = .unpad ∨
        (i = .dec ∧ n % 32 = 0)) ∨
      4096 ≤ n ∧ (i = .pad ∨ i = .enc)) ∧
    (t.errcode = 8 ↔
      s.rounds = 0 ∧ ((i = .enc ∧ n < 4096) ∨ (i = .dec ∧ n ≠ 0 ∧ n % 32 = 0 ∧ n ≤ 4096))) ∧
    t.errcode ≠ 4 ∧ t.errcode ≠ 5 ∧ t.errcode ≠ 6 ∧ t.errcode.toNat ≤ 8

/-! ### The sequencer's steps -/

/-- R178, R172: the `LOAD` step of `ROUND`, `ENC` and `DEC`: the halves of block `BCNT` of the input `p`. -/
def Obligations.LoadStepTakesTheBlock : Prop :=
  ∀ (i : Instr) (s : State) (p : Nat → Byte) (k : Nat), s.phase = .load → k = s.bcnt.toNat →
    (k + 1) * 32 ≤ 4096 →
    (i = .round ∧ (∀ j, p j = bufByte .ibuf s j) ∨ i = .dec ∧ (∀ j, p j = bufByte .ibuf s j) ∨
      i = .enc ∧ (∀ j, p j = if j < s.latch.n.toNat then bufByte .ibuf s j else s.latch.m)) →
    ∃ t, exec i s = .next t ∧ t = { s with left := t.left, right := t.right, phase := .freq } ∧
      t.left.bytes = (List.range 16).map (fun j => p (k * 32 + j)) ∧
      t.right.bytes = (List.range 16).map (fun j => p (k * 32 + 16 + j))

/-- R179: the `FREQ` step: `FReq(R)`, and nothing else but the phase. -/
def Obligations.RequestStepSendsTheRightHalf : Prop :=
  ∀ (i : Instr) (s : State), (i = .round ∨ i = .enc ∨ i = .dec) → s.phase = .freq →
    exec i s = .next { s with requests := s.right :: s.requests, phase := .fwait }

/-- R180, R125, R230: the `FRESP` step: one application of `Ψ` and the count, or `MixFault` with the unit's code and
the counters as they were. -/
def Obligations.ResponseStepAppliesTheRound : Prop :=
  ∀ (i : Instr) (s : State), (i = .round ∨ i = .enc ∨ i = .dec) → s.phase = .fwait →
    (∀ y, mixFn s.mix s.right = .ok y →
      ∃ t, exec i s = .next t ∧
        t = { s with
          left := s.right, right := t.right, rcnt := s.rcnt + 1
          phase := if s.rcnt + 1 = s.latch.reff then .store else .freq } ∧
        t.right.bytes = List.zipWith (· ^^^ ·) s.left.bytes y.bytes) ∧
    (∀ code, mixFn s.mix s.right = .fail code →
      exec i s = .next { failedState 5 0 s with fcode := code })

/-- R181: the `STORE` step: the block at its place, without the flip for `ROUND` and with it for `ENC` and `DEC`,
every other byte of `OBUF` as it was. -/
def Obligations.StoreStepWritesTheBlock : Prop :=
  ∀ (i : Instr) (s : State) (k : Nat) (out : List Byte), s.phase = .store → k = s.bcnt.toNat →
    (k + 1) * 32 ≤ 4096 →
    (i = .round ∧ out = s.left.bytes ++ s.right.bytes ∨
      (i = .enc ∨ i = .dec) ∧ out = s.right.bytes ++ s.left.bytes) →
    ∃ t, exec i s = .next t ∧
      t = { s with
        obuf := t.obuf, bcnt := s.bcnt + 1, rcnt := 0
        phase := if s.bcnt + 1 = s.latch.nb.setWidth 32 then .finish else .load } ∧
      (∀ j, j < 32 → some (bufByte .obuf t (k * 32 + j)) = out[j]?) ∧
      ∀ j, j < k * 32 ∨ (k + 1) * 32 ≤ j → bufByte .obuf t j = bufByte .obuf s j

/-- R182, R183: the `FINISH` step of `ROUND` and `ENC`, and of `DEC` with its unpadding of `OBUF[0:N]` in place. -/
def Obligations.FinishStepSettlesTheLength : Prop :=
  (∀ s : State, s.phase = .finish →
    exec .round s = .next { s with dstLen := 32, done := true, phase := .idle }) ∧
  (∀ s : State, s.phase = .finish →
    exec .enc s = .next { s with
      dstLen := BitVec.ofNat 32 (s.latch.nb.toNat * 32), done := true, phase := .idle }) ∧
  (∀ s : State, s.phase = .finish → s.latch.n.toNat ≤ 4096 →
    exec .dec s = .next (
      match unpadV (bufSlice .obuf s 0 s.latch.n.toNat) with
      | .ok v => { s with dstLen := BitVec.ofNat 32 v.length, done := true, phase := .idle }
      | .error m => failedState 4 (m.setWidth 32) s))

/-! ### Commands on blocks, from acceptance to completion -/

/-- R130, R131: an undisturbed `ROUND` of one block whose request is answered with a value: six steps, one request,
`OBUF[0:32] = Ψ_F(IBUF[0:32])`. -/
def Obligations.RoundCommandComputesPsi : Prop :=
  ∀ (s : State) (b : Block), s.phase = .idle → s.mix.answering = true → s.srcLen = 32 →
    psi (mixFn s.mix) (blockAt (bufByte .ibuf s) 0) = .ok b →
    ∃ t, stepMany 6 (submit (encode .round) s) = .next t ∧ Succeeded t ∧ BlocksFrame s t ∧
      t.estk = s.estk ∧ t.dstLen = 32 ∧ t.bcnt = 1 ∧ t.rcnt = 0 ∧ t.errinfo = 0 ∧ t.fcode = 0 ∧
      hostResult t = blockBytes b ∧
      t.requests = (blockAt (bufByte .ibuf s) 0).2 :: s.requests ∧
      ∀ j, 32 ≤ j → bufByte .obuf t j = bufByte .obuf s j

/-- R190, R187, R171, R184, R185: an undisturbed `ENC` whose requests are answered with values takes
`2 + NB·(2 + 2·REFF)` steps, ends without error, gives `crypt(IBUF[0:N], F, false, r)`, and sent the requests of R185. -/
def Obligations.EncCommandComputesCrypt : Prop :=
  ∀ (s : State) (out : List Byte) (r nb : Nat), s.phase = .idle → s.mix.answering = true →
    s.srcLen.toNat < 4096 → r = s.rounds.toNat → r ≠ 0 → nb = s.srcLen.toNat / 32 + 1 →
    crypt (hostOperand s) (mixFn s.mix) false r = .ok out →
    ∃ t, stepMany (2 + nb * (2 + 2 * r)) (submit (encode .enc) s) = .next t ∧ Succeeded t ∧
      BlocksFrame s t ∧ t.estk = s.estk ∧ hostResult t = out ∧ t.dstLen.toNat = nb * 32 ∧
      t.bcnt.toNat = nb ∧ t.rcnt = 0 ∧ t.errinfo = 0 ∧ t.fcode = 0 ∧
      t.requests =
        (blockRequests (mixFn s.mix) r (fun j => (pad (hostOperand s)).getD j 0) nb).reverse ++ s.requests ∧
      ∀ j, nb * 32 ≤ j → bufByte .obuf t j = bufByte .obuf s j

/-- R191, R187, R171, R184: an undisturbed `DEC` whose requests are answered with values takes
`2 + NB·(2 + 2·REFF)` steps and ends as `crypt(IBUF[0:N], F, true, r)` does: with its result, or in `PaddingError(m)`. -/
def Obligations.DecCommandComputesCrypt : Prop :=
  ∀ (s : State) (res : Except CryptError (List Byte)) (r nb : Nat), s.phase = .idle →
    s.mix.answering = true → s.srcLen.toNat ≠ 0 → s.srcLen.toNat % 32 = 0 → s.srcLen.toNat ≤ 4096 →
    r = s.rounds.toNat → r ≠ 0 → nb = s.srcLen.toNat / 32 →
    crypt (hostOperand s) (mixFn s.mix) true r = res → (∀ code, res ≠ .error (.mix code)) →
    ∃ t, stepMany (2 + nb * (2 + 2 * r)) (submit (encode .dec) s) = .next t ∧ BlocksFrame s t ∧
      t.phase = .idle ∧ t.done = true ∧ t.bcnt.toNat = nb ∧ t.rcnt = 0 ∧ t.fcode = 0 ∧
      t.requests =
        (blockRequests (mixFn s.mix) r (fun j => (hostOperand s).getD j 0) nb).reverse ++ s.requests ∧
      (∀ j, nb * 32 ≤ j → bufByte .obuf t j = bufByte .obuf s j) ∧
      (∀ out, res = .ok out → Succeeded t ∧ t.estk = s.estk ∧ t.errinfo = 0 ∧
        t.dstLen.toNat = out.length ∧ hostResult t = out) ∧
      (∀ m, res = .error (.padding m) → t.err = true ∧ t.estk = true ∧ t.errcode = 4 ∧
        t.errinfo = m.setWidth 32 ∧ t.dstLen = 0)

/-- R196, R230, R185: where a request of an undisturbed `ENC` or `DEC` fails, the command ends with `MixFault`, the
unit's code in `FERR`, no output, and after the failing request no other: the counters name it. -/
def Obligations.FailingMixEndsInMixFault : Prop :=
  ∀ (s : State) (i : Instr) (code : Byte) (r : Nat), s.phase = .idle → s.mix.answering = true →
    r = s.rounds.toNat → r ≠ 0 →
    (i = .enc ∧ s.srcLen.toNat < 4096 ∧
        crypt (hostOperand s) (mixFn s.mix) false r = .error (.mix code) ∨
      i = .dec ∧ s.srcLen.toNat ≤ 4096 ∧
        crypt (hostOperand s) (mixFn s.mix) true r = .error (.mix code)) →
    ∃ k t, stepMany k (submit (encode i) s) = .next t ∧ BlocksFrame s t ∧ t.phase = .idle ∧
      t.done = true ∧ t.err = true ∧ t.estk = true ∧ t.errcode = 5 ∧ t.errinfo = 0 ∧
      t.fcode = code ∧ t.dstLen = 0 ∧ t.rcnt.toNat < r ∧
      (∀ j, t.bcnt.toNat * 32 ≤ j → bufByte .obuf t j = bufByte .obuf s j) ∧
      ∃ x sent, t.requests = x :: sent ∧ mixFn s.mix x = .fail code ∧
        t.requests.length = s.requests.length + t.bcnt.toNat * r + t.rcnt.toNat + 1

/-- R193: `ENC`, then `DEC` of its result with the same `ROUNDS` and the same `F`, gives the message back; the host has
in between put the result into `IBUF` and its length into `SRC_LEN`. `F` need answer with values only the halves that
`ENC` sends: `DEC` sends no others. -/
def Obligations.EncryptThenDecryptRestores : Prop :=
  ∀ (s : State) (c : List Byte) (r nb : Nat), s.phase = .idle → s.mix.answering = true →
    s.srcLen.toNat < 4096 → r = s.rounds.toNat → r ≠ 0 → nb = s.srcLen.toNat / 32 + 1 →
    crypt (hostOperand s) (mixFn s.mix) false r = .ok c →
    ∃ t, stepMany (2 + nb * (2 + 2 * r)) (submit (encode .enc) s) = .next t ∧ Succeeded t ∧
      hostResult t = c ∧
      ∀ u : State, u.phase = .idle → u.mix = s.mix → u.rounds = s.rounds → u.srcLen = t.dstLen →
        hostOperand u = hostResult t →
        ∃ v, stepMany (2 + nb * (2 + 2 * r)) (submit (encode .dec) u) = .next v ∧ Succeeded v ∧
          v.dstLen = s.srcLen ∧ hostResult v = hostOperand s

/-- R20, R194: the outcome of a command is a function of its word, the configuration, the operands `IBUF[0:SRC_LEN]` and
`XBUF[0:SRC2_LEN]`, and `F`: two idle states that agree on these, and on nothing else, end the same command, undisturbed
(log 3), in the same outcome, after the same steps. -/
def Obligations.OutcomeDependsOnOperandsOnly : Prop :=
  ∀ (i : Instr) (s s' t : State) (k : Nat), s.phase = .idle → s'.phase = .idle → SameOperands s s' →
    stepMany (k + 1) (submit (encode i) s) = .next t → t.phase = .idle →
    ∃ t', stepMany (k + 1) (submit (encode i) s') = .next t' ∧ t'.phase = .idle ∧ SameOutcome t t'

/-! ### The engine's functions -/

/-- R110, R111: `xor` of equal lengths byte by byte, and its laws; none where the lengths differ (R112). -/
def Obligations.XorOfSequences : Prop :=
  ∀ a b : List Byte,
    (a.length ≠ b.length → xorSeq a b = none) ∧
    (a.length = b.length → ∃ z, xorSeq a b = some z ∧ z.length = a.length ∧
      (∀ (i : Nat) (x y : Byte), a[i]? = some x → b[i]? = some y → z[i]? = some (x ^^^ y)) ∧
      xorSeq b a = some z ∧ xorSeq z b = some a ∧
      xorSeq a (List.replicate a.length 0) = some a ∧ xorSeq a a = some (List.replicate a.length 0) ∧
      ∀ a' b' z' : List Byte, xorSeq a' b' = some z' → xorSeq (a ++ a') (b ++ b') = some (z ++ z'))

/-- R140, R141: `flip` of an even-length sequence, byte by byte; an involution, and a bijection at every even length. -/
def Obligations.FlipOfSequences : Prop :=
  (∀ s t : List Byte, s.length % 2 = 0 → t.length % 2 = 0 → flipSeq s = flipSeq t → s = t) ∧
  (∀ t : List Byte, t.length % 2 = 0 → ∃ s, s.length = t.length ∧ flipSeq s = some t) ∧
  ∀ s : List Byte, s.length % 2 = 0 →
    ∃ z, flipSeq s = some z ∧ z.length = s.length ∧ flipSeq z = some s ∧
    ∀ i, (i < s.length / 2 → z[i]? = s[i + s.length / 2]?) ∧
      (s.length / 2 ≤ i → i < s.length → z[i]? = s[i - s.length / 2]?)

/-- R150, R151: `pad`: the data, then `m` bytes `m` with `1 ≤ m ≤ 32`; the length is the next multiple of 32. -/
def Obligations.PadOfSequences : Prop :=
  ∀ (d : List Byte) (m : Nat), m = 32 - d.length % 32 →
    pad d = d ++ List.replicate m (BitVec.ofNat 8 m) ∧ 1 ≤ m ∧ m ≤ 32 ∧
    (pad d).length = d.length + m ∧ (pad d).length = (d.length / 32 + 1) * 32 ∧
    d.length < (pad d).length ∧ (pad d).length % 32 = 0 ∧
    (d.length % 32 = 0 → m = 32) ∧ (d.length % 32 = 31 → m = 1) ∧
    (pad d).take d.length = d ∧ (pad d).getLast? = some (BitVec.ofNat 8 m)

/-- R154: `unpad(pad(d)) == d`, validating or not, and the converse where `unpad_v` succeeds on a positive multiple
of 32. -/
def Obligations.UnpadInvertsPad : Prop :=
  (∀ d : List Byte, unpadV (pad d) = .ok d ∧ unpad0 (pad d) = .ok d) ∧
  ∀ c d : List Byte, c.length ≠ 0 → c.length % 32 = 0 → unpadV c = .ok d → pad d = c

/-- R153: when the unpad of this hardware fails, and with what. -/
def Obligations.UnpadValidates : Prop :=
  (∀ d : List Byte, unpad d = unpadV d) ∧ unpadV [] = .ok [] ∧
  ∀ (d : List Byte) (m : Byte), d.getLast? = some m →
    ((m = 0 ∨ 32 < m.toNat ∨ d.length < m.toNat ∨
        ∃ (j : Nat) (x : Byte), d.length - m.toNat ≤ j ∧ d[j]? = some x ∧ x ≠ m) →
      unpadV d = .error m) ∧
    ((m ≠ 0 ∧ m.toNat ≤ 32 ∧ m.toNat ≤ d.length ∧
        ∀ (j : Nat) (x : Byte), d.length - m.toNat ≤ j → d[j]? = some x → x = m) →
      unpadV d = .ok (d.take (d.length - m.toNat)))

/-- R126: `flip ∘ Ψ ∘ flip` undoes `Ψ`, on either side, for an `F` that is total; `Ψ` is a bijection, with its inverse
written out. -/
def Obligations.FlipPsiFlipInvertsPsi : Prop :=
  (∀ (f : MixFn) (b b' : Block), Total f → psi f b = psi f b' → b = b') ∧
  (∀ (f : MixFn) (a b y : Half), f a = .ok y → psi f (halfXor b y, a) = .ok (a, b)) ∧
  ∀ (f : MixFn) (b : Block), Total f →
    (∃ c d, psi f b = .ok c ∧ psi f (flipBlock c) = .ok d ∧ flipBlock d = b) ∧
    (∃ c d, psi f (flipBlock b) = .ok c ∧ psi f (flipBlock c) = .ok d ∧ d = b)

/-- R192, R127: `E` is an involution on blocks, so a bijection, for every total `F` and every `r ≥ 0`. -/
def Obligations.BlockTransformIsAnInvolution : Prop :=
  ∀ (f : MixFn) (r : Nat) (b : Block), Total f →
    (∃ c, transformBlock f r b = .ok c ∧ transformBlock f r c = .ok b) ∧
    ∀ b', transformBlock f r b = transformBlock f r b' → b = b'

/-- R193: `crypt(crypt(d, F, false, r), F, true, r) == d`, for every byte sequence, total `F` and `r`. -/
def Obligations.CryptRoundTrip : Prop :=
  ∀ (d : List Byte) (f : MixFn) (r : Nat), 1 ≤ r → Total f →
    ∃ c, crypt d f false r = .ok c ∧ crypt c f true r = .ok d

/-- R188: output block `k` is `E` of input block `k`; equal input blocks give equal output blocks. -/
def Obligations.BlocksAreIndependent : Prop :=
  ∀ (f : MixFn) (r nb : Nat) (p : Nat → Byte) (out : List Byte), transformBlocks f r p nb = .ok out →
    out.length = nb * 32 ∧
    (∀ k, k < nb → ∃ b, transformBlock f r (blockAt p k) = .ok b ∧
      (out.drop (k * 32)).take 32 = blockBytes b) ∧
    ∀ k k', k < nb → k' < nb → blockAt p k = blockAt p k' →
      (out.drop (k * 32)).take 32 = (out.drop (k' * 32)).take 32

/-! ### The host port -/

/-- R62, R66: an access that is not a legal combination, or a write to `OBUF`, is answered with `error`, busy or not,
and changes nothing. -/
def Obligations.IllegalAccessChangesNothing : Prop :=
  (∀ (s : State) (addr : BitVec 14) (size : Size) (rest : List Event),
    s.events = .read addr size :: rest → ¬ LegalRead addr size →
    step s = .next { s with events := rest, replies := .error :: s.replies }) ∧
  (∀ (s : State) (addr : BitVec 14) (data : WriteData) (rest : List Event),
    s.events = .write addr data :: rest → ¬ LegalWrite addr data →
    step s = .next { s with events := rest, replies := .error :: s.replies })

/-- R70: while busy every legal host write, one to `CMD` and one to `STATUS` among them, is dropped with `ok` and sets
`WRBUSY`. -/
def Obligations.BusyWriteIsDropped : Prop :=
  ∀ (s : State) (addr : BitVec 14) (data : WriteData) (rest : List Event),
    s.events = .write addr data :: rest → LegalWrite addr data → s.phase ≠ .idle →
    step s = .next { s with events := rest, replies := .ok :: s.replies, wrbusy := true }

/-- R69: a host read changes no state of the machine; it is answered, and may use up free values (log 6). -/
def Obligations.HostReadChangesNothing : Prop :=
  ∀ (s : State) (addr : BitVec 14) (size : Size) (rest : List Event),
    s.events = .read addr size :: rest →
    ∃ t answer, step s = .next t ∧
      t = { s with events := rest, replies := answer :: s.replies, draws := t.draws }

/-- R63, R27 to R40, R213: the value every register but `STATUS` reads as, at its offset, busy or not. -/
def Obligations.RegisterReads : Prop :=
  ∀ (s : State) (addr : BitVec 14) (v : Word) (rest : List Event),
    (addr, v) ∈ [(0x00, (BitVec.ofBool s.ie).setWidth 32), (0x08, 0), (0x0C, s.rounds),
      (0x10, s.srcLen), (0x14, s.src2Len), (0x18, s.dstLen), (0x1C, s.rcnt), (0x20, s.bcnt),
      (0x24, s.errinfo), (0x28, s.fcode.setWidth 32), (0x2C, 0x00010120), (0x30, 0x00001000)] →
    s.events = .read addr .word :: rest →
    step s = .next { s with events := rest, replies := .word v :: s.replies }

/-- R29: the word `STATUS` reads as, bit by bit. -/
def Obligations.StatusReadShowsTheFlags : Prop :=
  ∀ (s : State) (rest : List Event), s.events = .read 0x04 .word :: rest →
    ∃ w : Word, step s = .next { s with events := rest, replies := .word w :: s.replies } ∧
      (w.getLsbD 0 = true ↔ s.phase ≠ .idle) ∧ w.getLsbD 1 = s.done ∧ w.getLsbD 2 = s.err ∧
      w.getLsbD 3 = s.estk ∧ w.getLsbD 4 = s.wrbusy ∧ w.extractLsb' 5 3 = 0 ∧
      w.extractLsb' 8 8 = s.errcode ∧ w.extractLsb' 16 16 = 0

/-- R64, R28, R31 to R33, R41: an idle write of a register stores what the register stores; a read-only register
ignores it. `STATUS` and `CMD` have statements of their own. -/
def Obligations.RegisterWritesWhileIdle : Prop :=
  ∀ (s t : State) (addr : BitVec 14) (v : Word) (rest : List Event),
    (addr, t) ∈ [(0x00, { s with ie := v.getLsbD 0 }), (0x0C, { s with rounds := v }),
      (0x10, { s with srcLen := v }), (0x14, { s with src2Len := v }), (0x18, s), (0x1C, s),
      (0x20, s), (0x24, s), (0x28, s), (0x2C, s), (0x30, s)] →
    s.phase = .idle → s.events = .write addr (.word v) :: rest →
    step s = .next { t with events := rest, replies := .ok :: s.replies }

/-- R29, R212: an idle write to `STATUS` clears `DONE` by bit 1 and `WRBUSY` by bit 4, and nothing else; with `DONE` it
clears `irq`. -/
def Obligations.AcknowledgeClears : Prop :=
  ∀ (s : State) (v : Word) (rest : List Event), s.phase = .idle →
    s.events = .write 0x04 (.word v) :: rest →
    ∃ t, step s = .next t ∧
      t = { s with done := t.done, wrbusy := t.wrbusy, events := rest, replies := .ok :: s.replies } ∧
      t.done = (if v.getLsbD 1 = true then false else s.done) ∧
      t.wrbusy = (if v.getLsbD 4 = true then false else s.wrbusy) ∧
      (v.getLsbD 1 = true → irq t = false)

/-- R64, R65, R61: an idle write of a byte or a word to `IBUF` or `XBUF` sets its bytes, lowest lane at the lowest
index, and no other byte of either buffer. -/
def Obligations.BufferWriteIsLittleEndian : Prop :=
  ∀ (s : State) (b : Buf) (base i : Nat) (addr : BitVec 14) (data : WriteData) (rest : List Event),
    (b = .ibuf ∧ base = 0x1000 ∨ b = .xbuf ∧ base = 0x2000) → i < 4096 → addr.toNat = base + i →
    s.phase = .idle → s.events = .write addr data :: rest →
    (∀ v, data = .byte v → ∃ t, step s = .next t ∧
      t = { s with ibuf := t.ibuf, xbuf := t.xbuf, events := rest, replies := .ok :: s.replies } ∧
      ∀ c j, bufByte c t j = if c = b ∧ j = i then v else bufByte c s j) ∧
    (∀ v, data = .word v → i % 4 = 0 → ∃ t, step s = .next t ∧
      t = { s with ibuf := t.ibuf, xbuf := t.xbuf, events := rest, replies := .ok :: s.replies } ∧
      ∀ c j, bufByte c t j =
        if c = b ∧ i ≤ j ∧ j < i + 4 then v.extractLsb' (8 * (j - i)) 8 else bufByte c s j)

/-- R63, R65: a read of a byte of `IBUF` or `XBUF`, or of an aligned word with the lowest index least significant,
busy or not. -/
def Obligations.BufferReads : Prop :=
  ∀ (s : State) (b : Buf) (base i : Nat) (addr : BitVec 14) (rest : List Event),
    (b = .ibuf ∧ base = 0x1000 ∨ b = .xbuf ∧ base = 0x2000) → i < 4096 → addr.toNat = base + i →
    (s.events = .read addr .byte :: rest →
      step s = .next { s with events := rest, replies := .byte (bufByte b s i) :: s.replies }) ∧
    (s.events = .read addr .word :: rest → i % 4 = 0 →
      ∃ w : Word, step s = .next { s with events := rest, replies := .word w :: s.replies } ∧
        ∀ j, j < 4 → w.extractLsb' (8 * j) 8 = bufByte b s (i + j))

/-- R71, R72: a read of a byte of `OBUF` gives the byte of the result where it is defined, and elsewhere a value of which
nothing is known: the model's fresh free value (log 6). An aligned word does the same in each of its lanes (R65). -/
def Obligations.ObufReadsShowTheResultOnly : Prop :=
  ∀ (s : State) (i : Nat) (addr : BitVec 14) (rest : List Event), i < 4096 →
    addr.toNat = 0x3000 + i →
    (s.events = .read addr .byte :: rest → s.phase = .idle ∧ i < s.dstLen.toNat →
      step s = .next { s with
        events := rest, replies := .byte (bufByte .obuf s i) :: s.replies, draws := s.draws + 1 }) ∧
    (s.events = .read addr .byte :: rest → s.phase ≠ .idle ∨ s.dstLen.toNat ≤ i →
      step s = .next { s with
        events := rest, replies := .byte (Config.freeBits 8 s.draws) :: s.replies
        draws := s.draws + 1 }) ∧
    (s.events = .read addr .word :: rest → i % 4 = 0 →
      ∃ w : Word,
        step s = .next { s with events := rest, replies := .word w :: s.replies, draws := s.draws + 4 } ∧
        ∀ j, j < 4 → w.extractLsb' (8 * j) 8 =
          if s.phase = .idle ∧ i + j < s.dstLen.toNat then bufByte .obuf s (i + j)
          else Config.freeBits 8 (s.draws + j))

/-! ### Reset -/

/-- R46: the values the spec gives the state after hard reset. -/
def Obligations.ResetValues : Prop :=
  State.reset.phase = .idle ∧ regRead .ctrl State.reset = 0 ∧ regRead .status State.reset = 0 ∧
  regRead .rounds State.reset = 32 ∧ regRead .srcLen State.reset = 0 ∧
  regRead .src2Len State.reset = 0 ∧ regRead .dstLen State.reset = 0 ∧
  regRead .rcnt State.reset = 0 ∧ regRead .bcnt State.reset = 0 ∧
  regRead .errinfo State.reset = 0 ∧ regRead .ferr State.reset = 0 ∧
  regRead .id State.reset = 0x00010120 ∧ regRead .capr State.reset = 0x00001000 ∧
  irq State.reset = false

/-- R260, R262: a hard reset in any phase sets every register to its reset value and abandons the command; it says
nothing of `L`, `R`, the latches and the bytes of the buffers, none of which is listed any more. -/
def Obligations.HardResetFromAnyPhase : Prop :=
  ∀ (s : State) (rest : List Event), s.events = .hardReset :: rest →
    ∃ t, step s = .next t ∧
      t = { s with
        phase := .idle, ie := false, done := false, err := false, estk := false, wrbusy := false
        errcode := 0, rounds := 32, srcLen := 0, src2Len := 0, dstLen := 0, rcnt := 0, bcnt := 0
        errinfo := 0, fcode := 0, ibuf := [], xbuf := [], obuf := [], left := t.left
        right := t.right, latch := t.latch, draws := t.draws, resets := s.resets + 1
        events := rest }

/-! ### The whole machine -/

/-- The invariant holds after reset. -/
def Obligations.ResetMeetsTheInvariant : Prop := Inv State.reset

/-- R24, R29, R34, R36, R40, R43, R174: every step of the machine, whoever takes it, keeps the invariant. -/
def Obligations.EveryStepKeepsTheInvariant : Prop :=
  ∀ s t : State, Inv s → step s = .next t → Inv t

/-- R73, R174, R184: from a state that meets the invariant the machine meets no fault: every phase has its step, the
latch names a command, and no buffer index reaches `CAP`. -/
def Obligations.NoFaultUnderTheInvariant : Prop :=
  ∀ (s : State) (f : Fault), Inv s → step s ≠ .fault f

/-- R184, R25: the phase moves only along the arcs, or stays, unless a hard reset comes. -/
def Obligations.PhaseMovesAlongTheArcs : Prop :=
  ∀ s t : State, s.events.head? ≠ some .hardReset → step s = .next t → PhaseArc s.phase t.phase

/-- R70, R42, R175: while a command is in progress no step but a hard reset changes an operand, the configuration or the
operand latches; nor the mixing function, which R124 fixes for the command and whose change the model refuses
(DESIGN CHOICE, log 12). -/
def Obligations.OperandsAreFrozenWhileBusy : Prop :=
  ∀ s t : State, s.phase ≠ .idle → s.events.head? ≠ some .hardReset → step s = .next t →
    t.ibuf = s.ibuf ∧ t.xbuf = s.xbuf ∧ t.rounds = s.rounds ∧ t.srcLen = s.srcLen ∧
      t.src2Len = s.src2Len ∧ t.ie = s.ie ∧ t.latch = s.latch ∧ t.mix = s.mix ∧ t.resets = s.resets

/-- R26, R238: `ESTK` is cleared only by a hard reset and by an accepted `RST`. -/
def Obligations.ErrorIsRememberedUntilReset : Prop :=
  ∀ s t : State, s.estk = true → step s = .next t → s.events.head? ≠ some .hardReset →
    ¬ (s.phase = .idle ∧ s.events.head? = some (.write 0x8 (.word (encode .rst)))) → t.estk = true

/-- R183, R236, R240: the step in which a command ends, with or without error, sets `DONE`, and `irq` becomes
`CTRL.IE`. -/
def Obligations.CompletionRaisesTheInterrupt : Prop :=
  ∀ s t : State, s.phase ≠ .idle → s.events.head? ≠ some .hardReset → step s = .next t →
    t.phase = .idle → t.done = true ∧ t.ie = s.ie ∧ irq t = s.ie

/-- R184, R272, R283: undisturbed, and with a unit that answers, every command in progress comes to its end after
finitely many steps, whatever the unit answers. -/
def Obligations.EveryCommandEnds : Prop :=
  ∀ s : State, Inv s → Undisturbed s → ∃ k t, stepMany k s = .next t ∧ t.phase = .idle

/-- R123, R272: an unanswered request leaves the machine as it is; the answer, delivered as port bits, is the `FRESP`
step; a response when none is outstanding is ignored; and one that is not `F(x)` is refused (log 13). -/
def Obligations.ResponsesOnThePort : Prop :=
  (∀ s : State, s.phase = .fwait → s.events = [] → s.mix.answering = false → step s = .next s) ∧
  (∀ (s : State) (m : MixResponse) (rest : List Event), s.phase ≠ .fwait →
    s.events = .response m :: rest → step s = .next { s with events := rest }) ∧
  (∀ (s : State) (i : Instr) (m : MixResponse) (rest : List Event), s.phase = .fwait →
    s.events = .response m :: rest → latchedCommand s = some i →
    (m.ok = true ∧ mixFn s.mix s.right = .ok (halfOfBits m.data) ∨
      m.ok = false ∧ mixFn s.mix s.right = .fail m.code) →
    step s = exec i { s with events := rest }) ∧
  (∀ (s : State) (m : MixResponse) (rest : List Event), s.phase = .fwait →
    s.events = .response m :: rest →
    ¬ (m.ok = true ∧ mixFn s.mix s.right = .ok (halfOfBits m.data) ∨
      m.ok = false ∧ mixFn s.mix s.right = .fail m.code) →
    step s = .refused .responseNotTheAnswer)

/-- R124: another mixing function may be attached between commands; during one the model has no move for it (log 12). -/
def Obligations.MixingFunctionIsFixedDuringACommand : Prop :=
  (∀ (s : State) (u : MixUnit) (rest : List Event), s.phase = .idle → s.events = .attach u :: rest →
    step s = .next { s with events := rest, mix := u }) ∧
  (∀ (s : State) (u : MixUnit) (rest : List Event), s.phase ≠ .idle → s.events = .attach u :: rest →
    step s = .refused .mixChangedDuringCommand)

/-- R97: `wait` reads `STATUS`, and goes on reading while it shows `BUSY`; between two reads the model gives the engine
one turn (log 16). -/
def Obligations.WaitPollsStatus : Prop :=
  ∀ (s : State) (rest : List Event), s.events = .wait :: rest →
    step s = .next { s with
      replies := .word (regRead .status s) :: s.replies
      events := if s.phase = .idle then rest else .turn :: .wait :: rest }

/-- R121: the half that the port bits carry has byte `j` on bits `8j+7 : 8j`, and no half is lost on the way. -/
def Obligations.PortBitsCarryTheHalf : Prop :=
  (∀ h : Half, halfOfBits (bitsOfHalf h) = h) ∧
  ∀ (v : BitVec 128) (j : Nat), j < 16 → (halfOfBits v).bytes[j]? = some (v.extractLsb' (8 * j) 8)

/-- R97: what an `expect` line asserts is what the read before it returned: not what the register holds when the line
is reached, after a write to that register or to any other. The latest read counts (log 19). -/
def Obligations.ExpectSpeaksOfTheReadBefore : Prop :=
  ∀ (s t : State) (r r' : Reg) (x v : Word) (rest : List Event),
    s.events = scriptEvents [.rd r, .wr r' x] ++ rest → stepMany 2 s = .next t →
    (scriptAsserts [.rd r, .wr r' x, .expectReg r v] s t = true ↔ regRead r s = v)

/-- R97, R184, R272, R284: the script `cmd M; wait` of any command, alone at the port of an idle machine whose unit
answers, ends after finitely many steps, in an end state: every register with its value, `OBUF[0:DST_LEN]`, `IBUF` and
`XBUF`; and while the command is in progress it has none. That a `wait` lets the engine move is log 16. -/
def Obligations.CommandAndWaitEnds : Prop :=
  (∀ (s : State) (i : Instr), Inv s → s.phase = .idle → s.mix.answering = true →
    s.events = scriptEvents [.cmd i, .wait] →
    ∃ k t, stepMany k s = .next t ∧ scriptEnded [.cmd i, .wait] s t = true ∧
      ∃ e, scriptEndState [.cmd i, .wait] s t = some e ∧
        (∀ r v, (r, v) ∈ e.registers ↔ v = regRead r t) ∧ e.result = hostResult t ∧
        (∀ j, e.ibuf[j]? = if j < 4096 then some (bufByte .ibuf s j) else none) ∧
        ∀ j, e.xbuf[j]? = if j < 4096 then some (bufByte .xbuf s j) else none) ∧
  ∀ (ls : List Line) (s t : State), t.phase ≠ .idle → scriptEndState ls s t = none
end

