-- ==== Sys2Proof/Laws/Functions.lean ====
section
/-! SUPPORT. The small laws of the engine's functions on byte sequences and halves. -/

namespace Sys2Proof.Machine

@[simp] theorem blockSize_eq : Config.blockSize = 32 := rfl

@[simp] theorem half_eq : Config.half = 16 := rfl

@[simp] theorem cap_eq : Config.cap = 4096 := rfl

theorem half_ext {a b : Half} (h : a.bytes = b.bytes) : a = b := by
  cases a; cases b; simp_all

@[simp] theorem half_length (h : Half) : h.bytes.length = 16 := h.len

@[simp] theorem halfOf_bytes (f : Nat → Byte) : (halfOf f).bytes = (List.range 16).map f := rfl

theorem halfOf_congr {f g : Nat → Byte} (h : ∀ j, j < 16 → f j = g j) : halfOf f = halfOf g := by
  apply half_ext
  simp only [halfOf_bytes]
  exact List.map_congr_left fun j hj => h j (List.mem_range.mp hj)

@[simp] theorem halfXor_bytes (a b : Half) :
    (halfXor a b).bytes = List.zipWith (· ^^^ ·) a.bytes b.bytes := rfl

/-- Exclusive-or with the same sequence twice is nothing (R111). -/
theorem zipWith_xor_cancel : ∀ (a b : List Byte), a.length = b.length →
    List.zipWith (· ^^^ ·) (List.zipWith (· ^^^ ·) a b) b = a
  | [], [], _ => rfl
  | x :: a, y :: b, h => by
    simp only [List.zipWith_cons_cons, List.cons.injEq]
    exact ⟨by rw [BitVec.xor_assoc, BitVec.xor_self, BitVec.xor_zero],
      zipWith_xor_cancel a b (by simpa using h)⟩

/-- The law of R111 that undoes a round, for halves. -/
@[simp] theorem halfXor_cancel (a b : Half) : halfXor (halfXor a b) b = a :=
  half_ext (zipWith_xor_cancel _ _ (by simp))

@[simp] theorem flipBlock_flipBlock (b : Block) : flipBlock (flipBlock b) = b := rfl

@[simp] theorem blockBytes_length (b : Block) : (blockBytes b).length = 32 := by simp [blockBytes]

/-- `m` ranges over `[1, B]` (R150). -/
theorem padCount_range (n : Nat) : 1 ≤ padCount n ∧ padCount n ≤ 32 := by
  simp only [padCount, Config.blockSize]; omega

/-- `n + m` is the next multiple of `B` (R151). -/
theorem add_padCount (n : Nat) : n + padCount n = (n / 32 + 1) * 32 := by
  simp only [padCount, Config.blockSize]; omega

@[simp] theorem padByte_toNat (n : Nat) : (padByte n).toNat = padCount n := by
  have := padCount_range n
  simp only [padByte, BitVec.toNat_ofNat]; omega

@[simp] theorem pad_length (d : List Byte) : (pad d).length = (d.length / 32 + 1) * 32 := by
  simp [pad, add_padCount]

theorem flipSeq_even {s : List Byte} (h : s.length % 2 = 0) :
    flipSeq s = some (s.drop (s.length / 2) ++ s.take (s.length / 2)) := if_pos h

/-- `len(flip(b)) = len(b)` (R141). -/
theorem flipSeq_length {s z : List Byte} (h : flipSeq s = some z) : z.length = s.length := by
  unfold flipSeq at h
  split at h
  · cases h; simp only [List.length_append, List.length_drop, List.length_take]; omega
  · cases h

/-- The hardware validates (R6, R153). -/
@[simp] theorem unpad_eq_unpadV (d : List Byte) : unpad d = unpadV d := by simp [unpad]

/-- What a success of the validating unpad says (R153). -/
theorem unpadV_ok {d v : List Byte} (h : unpadV d = .ok v) :
    (d = [] ∧ v = []) ∨
    ∃ m : Byte, d.getLast? = some m ∧ 1 ≤ m.toNat ∧ m.toNat ≤ 32 ∧ m.toNat ≤ d.length ∧
      v = d.take (d.length - m.toNat) ∧ ∀ x ∈ d.drop (d.length - m.toNat), x = m := by
  unfold unpadV at h
  split at h
  · rename_i hl
    exact .inl ⟨by simpa using hl, by cases h; simpa using hl⟩
  · rename_i m hl
    split at h
    · cases h
    · rename_i hb
      simp only [not_or, Nat.not_lt, Config.blockSize] at hb
      split at h
      · rename_i ha
        cases h
        refine .inr ⟨m, hl, by omega, hb.2.1, hb.2.2, rfl, ?_⟩
        simpa using ha
      · cases h

/-- The result of the validating unpad is no longer than its argument (R153). -/
theorem unpadV_length_le {d v : List Byte} (h : unpadV d = .ok v) : v.length ≤ d.length := by
  rcases unpadV_ok h with ⟨rfl, rfl⟩ | ⟨m, _, _, _, _, rfl, _⟩
  · exact Nat.le_refl _
  · simp

theorem psiIter_zero (f : MixFn) (b : Block) : psiIter f 0 b = .ok b := rfl

theorem psiIter_succ (f : MixFn) (r : Nat) (b : Block) :
    psiIter f (r + 1) b =
      match psiIter f r b with
      | .ok b' => psi f b'
      | .error code => .error code := rfl

end Sys2Proof.Machine
end

