-- ==== Sys2Proof/Laws/Memory.lean ====
section
/-! SUPPORT. The laws of buffer memory: a read after a write, at the same index and at another, and that
every write keeps the canonical form. -/

namespace Sys2Proof.Machine

@[simp] theorem memGet_nil (a : Nat) : memGet [] a = none := rfl

@[simp] theorem memGet_memPut_same (m : List Host.Cell) (a : Nat) (v : Byte) :
    memGet (memPut m a v) a = some v := by
  induction m with
  | nil => simp [memPut, memGet]
  | cons c m ih =>
    obtain ⟨b, w⟩ := c
    by_cases h1 : a < b
    · simp [memPut, memGet, h1]
    · by_cases h2 : a = b <;> simp [memPut, memGet, h1, h2]
      simpa [h2] using ih

theorem memGet_memPut_other (m : List Host.Cell) {a b : Nat} (v : Byte) (h : b ≠ a) :
    memGet (memPut m a v) b = memGet m b := by
  induction m with
  | nil => simp [memPut, memGet, h]
  | cons c m ih =>
    obtain ⟨x, w⟩ := c
    by_cases h1 : a < x
    · simp [memPut, memGet, h1, h]
    · by_cases h2 : a = x
      · subst h2; simp [memPut, memGet, h]
      · simp [memPut, memGet, h1, h2, ih]

/-- A read after a write of one byte. -/
theorem memGet_memPut (m : List Host.Cell) (a b : Nat) (v : Byte) :
    memGet (memPut m a v) b = if b = a then some v else memGet m b := by
  by_cases h : b = a
  · simp [h]
  · simp [h, memGet_memPut_other]

/-- A read after a write of consecutive bytes. -/
theorem memGet_memPutSeq (vs : List Byte) : ∀ (m : List Host.Cell) (a b : Nat),
    memGet (memPutSeq m a vs) b = if a ≤ b then (vs[b - a]?).or (memGet m b) else memGet m b := by
  induction vs with
  | nil => intro m a b; simp [memPutSeq]
  | cons v vs ih =>
    intro m a b
    rw [memPutSeq, ih, memGet_memPut]
    by_cases h1 : a + 1 ≤ b
    · have : b - a = (b - (a + 1)) + 1 := by omega
      have h2 : b ≠ a := by omega
      have h3 : a ≤ b := by omega
      simp [h1, h2, h3, this]
    · by_cases h2 : b = a
      · subst h2; simp
      · have h3 : ¬ a ≤ b := by omega
        simp [h1, h2, h3]

/-- Outside the bytes written a write of consecutive bytes changes nothing. -/
theorem memGet_memPutSeq_outside (m : List Host.Cell) (a b : Nat) (vs : List Byte)
    (h : b < a ∨ a + vs.length ≤ b) : memGet (memPutSeq m a vs) b = memGet m b := by
  rw [memGet_memPutSeq]
  by_cases h1 : a ≤ b
  · have : vs.length ≤ b - a := by omega
    simp [h1, List.getElem?_eq_none this]
  · simp [h1]

/-- Inside them a read gives the byte written. -/
theorem memGet_memPutSeq_inside (m : List Host.Cell) (a : Nat) (vs : List Byte) (j : Nat)
    (h : j < vs.length) : memGet (memPutSeq m a vs) (a + j) = some vs[j] := by
  rw [memGet_memPutSeq]; simp [h]

theorem memRising_mono {lo lo' hi : Nat} {m : List Host.Cell} (h : lo' ≤ lo)
    (hm : memRising lo hi m = true) : memRising lo' hi m = true := by
  cases m with
  | nil => rfl
  | cons c m => obtain ⟨a, v⟩ := c; simp [memRising] at hm ⊢; exact ⟨⟨by omega, hm.1.2⟩, hm.2⟩

theorem memRising_memPut {m : List Host.Cell} : ∀ {lo hi a : Nat} (v : Byte), lo ≤ a → a < hi →
    memRising lo hi m = true → memRising lo hi (memPut m a v) = true := by
  induction m with
  | nil => intro lo hi a v h1 h2 _; simp [memPut, memRising, h1, h2]
  | cons c m ih =>
    obtain ⟨b, w⟩ := c
    intro lo hi a v h1 h2 hm
    simp [memRising] at hm
    by_cases hab : a < b
    · simp [memPut, hab, memRising, h1, h2, hm]
    · by_cases he : a = b
      · subst he; simp [memPut, memRising, hm]
      · simp [memPut, hab, he, memRising, hm]
        exact ih v (by omega) h2 hm.2

theorem Memory.wf_nil : Memory.wf [] = true := rfl

/-- A write below `CAP` keeps the canonical form. -/
theorem Memory.wf_memPut {m : List Host.Cell} {a : Nat} (v : Byte) (h : a < Config.cap)
    (hm : Memory.wf m = true) : Memory.wf (memPut m a v) = true :=
  memRising_memPut v (Nat.zero_le a) h hm

/-- A write of consecutive bytes below `CAP` keeps the canonical form. -/
theorem Memory.wf_memPutSeq (vs : List Byte) : ∀ {m : List Host.Cell} {a : Nat},
    a + vs.length ≤ Config.cap → Memory.wf m = true → Memory.wf (memPutSeq m a vs) = true := by
  induction vs with
  | nil => intro m a _ hm; exact hm
  | cons v vs ih =>
    intro m a h hm
    simp only [List.length_cons] at h
    exact ih (by omega) (Memory.wf_memPut v (by omega) hm)

/-- The memory of the state after reset is in canonical form. -/
theorem State.reset_memory_wf : Memory.wf State.reset.ibuf = true ∧
    Memory.wf State.reset.xbuf = true ∧ Memory.wf State.reset.obuf = true := ⟨rfl, rfl, rfl⟩

@[simp] theorem bufSlice_length (b : Buf) (s : State) (a n : Nat) : (bufSlice b s a n).length = n := by
  simp [bufSlice]

@[simp] theorem bufSlice_getElem (b : Buf) (s : State) (a n j : Nat)
    (h : j < (bufSlice b s a n).length) : (bufSlice b s a n)[j] = bufByte b s (a + j) := by
  simp [bufSlice]

theorem bufSlice_getElem? (b : Buf) (s : State) (a n j : Nat) :
    (bufSlice b s a n)[j]? = if j < n then some (bufByte b s (a + j)) else none := by
  by_cases h : j < n <;> simp [bufSlice, h]

/-- One byte of a buffer after `OBUF[a : a+len(v)] <- v`: only the bytes of `OBUF` written change. -/
theorem bufByte_storeObuf (b : Buf) (s : State) (a j : Nat) (v : List Byte) :
    bufByte b (storeObuf a v s) j =
      if b = .obuf ∧ a ≤ j then (v[j - a]?).getD (bufByte b s j) else bufByte b s j := by
  cases b with
  | ibuf => simp [bufByte, bufCells, storeObuf]
  | xbuf => simp [bufByte, bufCells, storeObuf]
  | obuf =>
    by_cases h : a ≤ j
    · simp only [bufByte, bufCells, storeObuf, memGet_memPutSeq, h, if_true, and_self]
      cases v[j - a]? <;> simp
    · simp [bufByte, bufCells, storeObuf, memGet_memPutSeq, h]

/-- A byte of a buffer depends on the buffer and the number of resets alone. -/
theorem bufByte_congr {b : Buf} {s t : State} (hc : bufCells b s = bufCells b t)
    (hr : s.resets = t.resets) (j : Nat) : bufByte b s j = bufByte b t j := by
  simp [bufByte, hc, hr]

theorem bufSlice_congr {b : Buf} {s t : State} (hc : bufCells b s = bufCells b t)
    (hr : s.resets = t.resets) (a n : Nat) : bufSlice b s a n = bufSlice b t a n := by
  simp [bufSlice, bufByte, hc, hr]

end Sys2Proof.Machine
end

