-- ==== Sys2Proof/Laws/State.lean ====
section
/-! SUPPORT. What each named update of the state leaves in each field: one lemma per field, true by rfl. -/

namespace Sys2Proof.Machine

variable (s : State)

/-! `complete` -/

@[simp] theorem complete_left : (complete s).left = s.left := rfl
@[simp] theorem complete_right : (complete s).right = s.right := rfl
@[simp] theorem complete_phase : (complete s).phase = .idle := rfl
@[simp] theorem complete_bcnt : (complete s).bcnt = s.bcnt := rfl
@[simp] theorem complete_rcnt : (complete s).rcnt = s.rcnt := rfl
@[simp] theorem complete_ie : (complete s).ie = s.ie := rfl
@[simp] theorem complete_done : (complete s).done = true := rfl
@[simp] theorem complete_err : (complete s).err = s.err := rfl
@[simp] theorem complete_estk : (complete s).estk = s.estk := rfl
@[simp] theorem complete_wrbusy : (complete s).wrbusy = s.wrbusy := rfl
@[simp] theorem complete_errcode : (complete s).errcode = s.errcode := rfl
@[simp] theorem complete_rounds : (complete s).rounds = s.rounds := rfl
@[simp] theorem complete_srcLen : (complete s).srcLen = s.srcLen := rfl
@[simp] theorem complete_src2Len : (complete s).src2Len = s.src2Len := rfl
@[simp] theorem complete_dstLen : (complete s).dstLen = s.dstLen := rfl
@[simp] theorem complete_errinfo : (complete s).errinfo = s.errinfo := rfl
@[simp] theorem complete_fcode : (complete s).fcode = s.fcode := rfl
@[simp] theorem complete_ibuf : (complete s).ibuf = s.ibuf := rfl
@[simp] theorem complete_xbuf : (complete s).xbuf = s.xbuf := rfl
@[simp] theorem complete_obuf : (complete s).obuf = s.obuf := rfl
@[simp] theorem complete_latch : (complete s).latch = s.latch := rfl
@[simp] theorem complete_events : (complete s).events = s.events := rfl
@[simp] theorem complete_replies : (complete s).replies = s.replies := rfl
@[simp] theorem complete_requests : (complete s).requests = s.requests := rfl
@[simp] theorem complete_mix : (complete s).mix = s.mix := rfl
@[simp] theorem complete_draws : (complete s).draws = s.draws := rfl
@[simp] theorem complete_resets : (complete s).resets = s.resets := rfl

/-! `raise` -/

@[simp] theorem raise_left (e : ErrorKind) (info : Word) : (raise e info s).left = s.left := rfl
@[simp] theorem raise_right (e : ErrorKind) (info : Word) : (raise e info s).right = s.right := rfl
@[simp] theorem raise_phase (e : ErrorKind) (info : Word) : (raise e info s).phase = .idle := rfl
@[simp] theorem raise_bcnt (e : ErrorKind) (info : Word) : (raise e info s).bcnt = s.bcnt := rfl
@[simp] theorem raise_rcnt (e : ErrorKind) (info : Word) : (raise e info s).rcnt = s.rcnt := rfl
@[simp] theorem raise_ie (e : ErrorKind) (info : Word) : (raise e info s).ie = s.ie := rfl
@[simp] theorem raise_done (e : ErrorKind) (info : Word) : (raise e info s).done = true := rfl
@[simp] theorem raise_err (e : ErrorKind) (info : Word) : (raise e info s).err = true := rfl
@[simp] theorem raise_estk (e : ErrorKind) (info : Word) : (raise e info s).estk = true := rfl
@[simp] theorem raise_wrbusy (e : ErrorKind) (info : Word) : (raise e info s).wrbusy = s.wrbusy := rfl
@[simp] theorem raise_errcode (e : ErrorKind) (info : Word) : (raise e info s).errcode = errorCode e := rfl
@[simp] theorem raise_rounds (e : ErrorKind) (info : Word) : (raise e info s).rounds = s.rounds := rfl
@[simp] theorem raise_srcLen (e : ErrorKind) (info : Word) : (raise e info s).srcLen = s.srcLen := rfl
@[simp] theorem raise_src2Len (e : ErrorKind) (info : Word) : (raise e info s).src2Len = s.src2Len := rfl
@[simp] theorem raise_dstLen (e : ErrorKind) (info : Word) : (raise e info s).dstLen = 0 := rfl
@[simp] theorem raise_errinfo (e : ErrorKind) (info : Word) : (raise e info s).errinfo = info := rfl
@[simp] theorem raise_fcode (e : ErrorKind) (info : Word) : (raise e info s).fcode = s.fcode := rfl
@[simp] theorem raise_ibuf (e : ErrorKind) (info : Word) : (raise e info s).ibuf = s.ibuf := rfl
@[simp] theorem raise_xbuf (e : ErrorKind) (info : Word) : (raise e info s).xbuf = s.xbuf := rfl
@[simp] theorem raise_obuf (e : ErrorKind) (info : Word) : (raise e info s).obuf = s.obuf := rfl
@[simp] theorem raise_latch (e : ErrorKind) (info : Word) : (raise e info s).latch = s.latch := rfl
@[simp] theorem raise_events (e : ErrorKind) (info : Word) : (raise e info s).events = s.events := rfl
@[simp] theorem raise_replies (e : ErrorKind) (info : Word) : (raise e info s).replies = s.replies := rfl
@[simp] theorem raise_requests (e : ErrorKind) (info : Word) : (raise e info s).requests = s.requests := rfl
@[simp] theorem raise_mix (e : ErrorKind) (info : Word) : (raise e info s).mix = s.mix := rfl
@[simp] theorem raise_draws (e : ErrorKind) (info : Word) : (raise e info s).draws = s.draws := rfl
@[simp] theorem raise_resets (e : ErrorKind) (info : Word) : (raise e info s).resets = s.resets := rfl

/-! `acceptClear` -/

@[simp] theorem acceptClear_left : (acceptClear s).left = s.left := rfl
@[simp] theorem acceptClear_right : (acceptClear s).right = s.right := rfl
@[simp] theorem acceptClear_phase : (acceptClear s).phase = s.phase := rfl
@[simp] theorem acceptClear_bcnt : (acceptClear s).bcnt = 0 := rfl
@[simp] theorem acceptClear_rcnt : (acceptClear s).rcnt = 0 := rfl
@[simp] theorem acceptClear_ie : (acceptClear s).ie = s.ie := rfl
@[simp] theorem acceptClear_done : (acceptClear s).done = false := rfl
@[simp] theorem acceptClear_err : (acceptClear s).err = false := rfl
@[simp] theorem acceptClear_estk : (acceptClear s).estk = s.estk := rfl
@[simp] theorem acceptClear_wrbusy : (acceptClear s).wrbusy = s.wrbusy := rfl
@[simp] theorem acceptClear_errcode : (acceptClear s).errcode = 0 := rfl
@[simp] theorem acceptClear_rounds : (acceptClear s).rounds = s.rounds := rfl
@[simp] theorem acceptClear_srcLen : (acceptClear s).srcLen = s.srcLen := rfl
@[simp] theorem acceptClear_src2Len : (acceptClear s).src2Len = s.src2Len := rfl
@[simp] theorem acceptClear_dstLen : (acceptClear s).dstLen = 0 := rfl
@[simp] theorem acceptClear_errinfo : (acceptClear s).errinfo = 0 := rfl
@[simp] theorem acceptClear_fcode : (acceptClear s).fcode = 0 := rfl
@[simp] theorem acceptClear_ibuf : (acceptClear s).ibuf = s.ibuf := rfl
@[simp] theorem acceptClear_xbuf : (acceptClear s).xbuf = s.xbuf := rfl
@[simp] theorem acceptClear_obuf : (acceptClear s).obuf = s.obuf := rfl
@[simp] theorem acceptClear_latch : (acceptClear s).latch = s.latch := rfl
@[simp] theorem acceptClear_events : (acceptClear s).events = s.events := rfl
@[simp] theorem acceptClear_replies : (acceptClear s).replies = s.replies := rfl
@[simp] theorem acceptClear_requests : (acceptClear s).requests = s.requests := rfl
@[simp] theorem acceptClear_mix : (acceptClear s).mix = s.mix := rfl
@[simp] theorem acceptClear_draws : (acceptClear s).draws = s.draws := rfl
@[simp] theorem acceptClear_resets : (acceptClear s).resets = s.resets := rfl

/-! `latchOperands` -/

@[simp] theorem latchOperands_left (i : Instr) : (latchOperands i s).left = s.left := rfl
@[simp] theorem latchOperands_right (i : Instr) : (latchOperands i s).right = s.right := rfl
@[simp] theorem latchOperands_phase (i : Instr) : (latchOperands i s).phase = s.phase := rfl
@[simp] theorem latchOperands_bcnt (i : Instr) : (latchOperands i s).bcnt = s.bcnt := rfl
@[simp] theorem latchOperands_rcnt (i : Instr) : (latchOperands i s).rcnt = s.rcnt := rfl
@[simp] theorem latchOperands_ie (i : Instr) : (latchOperands i s).ie = s.ie := rfl
@[simp] theorem latchOperands_done (i : Instr) : (latchOperands i s).done = s.done := rfl
@[simp] theorem latchOperands_err (i : Instr) : (latchOperands i s).err = s.err := rfl
@[simp] theorem latchOperands_estk (i : Instr) : (latchOperands i s).estk = s.estk := rfl
@[simp] theorem latchOperands_wrbusy (i : Instr) : (latchOperands i s).wrbusy = s.wrbusy := rfl
@[simp] theorem latchOperands_errcode (i : Instr) : (latchOperands i s).errcode = s.errcode := rfl
@[simp] theorem latchOperands_rounds (i : Instr) : (latchOperands i s).rounds = s.rounds := rfl
@[simp] theorem latchOperands_srcLen (i : Instr) : (latchOperands i s).srcLen = s.srcLen := rfl
@[simp] theorem latchOperands_src2Len (i : Instr) : (latchOperands i s).src2Len = s.src2Len := rfl
@[simp] theorem latchOperands_dstLen (i : Instr) : (latchOperands i s).dstLen = s.dstLen := rfl
@[simp] theorem latchOperands_errinfo (i : Instr) : (latchOperands i s).errinfo = s.errinfo := rfl
@[simp] theorem latchOperands_fcode (i : Instr) : (latchOperands i s).fcode = s.fcode := rfl
@[simp] theorem latchOperands_ibuf (i : Instr) : (latchOperands i s).ibuf = s.ibuf := rfl
@[simp] theorem latchOperands_xbuf (i : Instr) : (latchOperands i s).xbuf = s.xbuf := rfl
@[simp] theorem latchOperands_obuf (i : Instr) : (latchOperands i s).obuf = s.obuf := rfl
@[simp] theorem latchOperands_latch (i : Instr) :
    (latchOperands i s).latch = { s.latch with op := (encode i).extractLsb' 0 5, n := s.srcLen, n2 := s.src2Len } := rfl
@[simp] theorem latchOperands_events (i : Instr) : (latchOperands i s).events = s.events := rfl
@[simp] theorem latchOperands_replies (i : Instr) : (latchOperands i s).replies = s.replies := rfl
@[simp] theorem latchOperands_requests (i : Instr) : (latchOperands i s).requests = s.requests := rfl
@[simp] theorem latchOperands_mix (i : Instr) : (latchOperands i s).mix = s.mix := rfl
@[simp] theorem latchOperands_draws (i : Instr) : (latchOperands i s).draws = s.draws := rfl
@[simp] theorem latchOperands_resets (i : Instr) : (latchOperands i s).resets = s.resets := rfl

/-! `beginCommand` -/

@[simp] theorem beginCommand_left (i : Instr) : (beginCommand i s).left = s.left := rfl
@[simp] theorem beginCommand_right (i : Instr) : (beginCommand i s).right = s.right := rfl
@[simp] theorem beginCommand_phase (i : Instr) : (beginCommand i s).phase = s.phase := rfl
@[simp] theorem beginCommand_bcnt (i : Instr) : (beginCommand i s).bcnt = 0 := rfl
@[simp] theorem beginCommand_rcnt (i : Instr) : (beginCommand i s).rcnt = 0 := rfl
@[simp] theorem beginCommand_ie (i : Instr) : (beginCommand i s).ie = s.ie := rfl
@[simp] theorem beginCommand_done (i : Instr) : (beginCommand i s).done = false := rfl
@[simp] theorem beginCommand_err (i : Instr) : (beginCommand i s).err = false := rfl
@[simp] theorem beginCommand_estk (i : Instr) : (beginCommand i s).estk = s.estk := rfl
@[simp] theorem beginCommand_wrbusy (i : Instr) : (beginCommand i s).wrbusy = s.wrbusy := rfl
@[simp] theorem beginCommand_errcode (i : Instr) : (beginCommand i s).errcode = 0 := rfl
@[simp] theorem beginCommand_rounds (i : Instr) : (beginCommand i s).rounds = s.rounds := rfl
@[simp] theorem beginCommand_srcLen (i : Instr) : (beginCommand i s).srcLen = s.srcLen := rfl
@[simp] theorem beginCommand_src2Len (i : Instr) : (beginCommand i s).src2Len = s.src2Len := rfl
@[simp] theorem beginCommand_dstLen (i : Instr) : (beginCommand i s).dstLen = 0 := rfl
@[simp] theorem beginCommand_errinfo (i : Instr) : (beginCommand i s).errinfo = 0 := rfl
@[simp] theorem beginCommand_fcode (i : Instr) : (beginCommand i s).fcode = 0 := rfl
@[simp] theorem beginCommand_ibuf (i : Instr) : (beginCommand i s).ibuf = s.ibuf := rfl
@[simp] theorem beginCommand_xbuf (i : Instr) : (beginCommand i s).xbuf = s.xbuf := rfl
@[simp] theorem beginCommand_obuf (i : Instr) : (beginCommand i s).obuf = s.obuf := rfl
@[simp] theorem beginCommand_latch (i : Instr) :
    (beginCommand i s).latch = { s.latch with op := (encode i).extractLsb' 0 5, n := s.srcLen, n2 := s.src2Len } := rfl
@[simp] theorem beginCommand_events (i : Instr) : (beginCommand i s).events = s.events := rfl
@[simp] theorem beginCommand_replies (i : Instr) : (beginCommand i s).replies = s.replies := rfl
@[simp] theorem beginCommand_requests (i : Instr) : (beginCommand i s).requests = s.requests := rfl
@[simp] theorem beginCommand_mix (i : Instr) : (beginCommand i s).mix = s.mix := rfl
@[simp] theorem beginCommand_draws (i : Instr) : (beginCommand i s).draws = s.draws := rfl
@[simp] theorem beginCommand_resets (i : Instr) : (beginCommand i s).resets = s.resets := rfl

/-! `enterExec` -/

@[simp] theorem enterExec_left : (enterExec s).left = s.left := rfl
@[simp] theorem enterExec_right : (enterExec s).right = s.right := rfl
@[simp] theorem enterExec_phase : (enterExec s).phase = .exec := rfl
@[simp] theorem enterExec_bcnt : (enterExec s).bcnt = s.bcnt := rfl
@[simp] theorem enterExec_rcnt : (enterExec s).rcnt = s.rcnt := rfl
@[simp] theorem enterExec_ie : (enterExec s).ie = s.ie := rfl
@[simp] theorem enterExec_done : (enterExec s).done = s.done := rfl
@[simp] theorem enterExec_err : (enterExec s).err = s.err := rfl
@[simp] theorem enterExec_estk : (enterExec s).estk = s.estk := rfl
@[simp] theorem enterExec_wrbusy : (enterExec s).wrbusy = s.wrbusy := rfl
@[simp] theorem enterExec_errcode : (enterExec s).errcode = s.errcode := rfl
@[simp] theorem enterExec_rounds : (enterExec s).rounds = s.rounds := rfl
@[simp] theorem enterExec_srcLen : (enterExec s).srcLen = s.srcLen := rfl
@[simp] theorem enterExec_src2Len : (enterExec s).src2Len = s.src2Len := rfl
@[simp] theorem enterExec_dstLen : (enterExec s).dstLen = s.dstLen := rfl
@[simp] theorem enterExec_errinfo : (enterExec s).errinfo = s.errinfo := rfl
@[simp] theorem enterExec_fcode : (enterExec s).fcode = s.fcode := rfl
@[simp] theorem enterExec_ibuf : (enterExec s).ibuf = s.ibuf := rfl
@[simp] theorem enterExec_xbuf : (enterExec s).xbuf = s.xbuf := rfl
@[simp] theorem enterExec_obuf : (enterExec s).obuf = s.obuf := rfl
@[simp] theorem enterExec_latch : (enterExec s).latch = { s.latch with reff := 0, m := 0, nb := 0 } := rfl
@[simp] theorem enterExec_events : (enterExec s).events = s.events := rfl
@[simp] theorem enterExec_replies : (enterExec s).replies = s.replies := rfl
@[simp] theorem enterExec_requests : (enterExec s).requests = s.requests := rfl
@[simp] theorem enterExec_mix : (enterExec s).mix = s.mix := rfl
@[simp] theorem enterExec_draws : (enterExec s).draws = s.draws := rfl
@[simp] theorem enterExec_resets : (enterExec s).resets = s.resets := rfl

/-! `enterLoad` -/

@[simp] theorem enterLoad_left (reff : Word) (m : Byte) (nb : BitVec 8) : (enterLoad reff m nb s).left = s.left := rfl
@[simp] theorem enterLoad_right (reff : Word) (m : Byte) (nb : BitVec 8) :
    (enterLoad reff m nb s).right = s.right := rfl
@[simp] theorem enterLoad_phase (reff : Word) (m : Byte) (nb : BitVec 8) :
    (enterLoad reff m nb s).phase = .load := rfl
@[simp] theorem enterLoad_bcnt (reff : Word) (m : Byte) (nb : BitVec 8) : (enterLoad reff m nb s).bcnt = s.bcnt := rfl
@[simp] theorem enterLoad_rcnt (reff : Word) (m : Byte) (nb : BitVec 8) : (enterLoad reff m nb s).rcnt = s.rcnt := rfl
@[simp] theorem enterLoad_ie (reff : Word) (m : Byte) (nb : BitVec 8) : (enterLoad reff m nb s).ie = s.ie := rfl
@[simp] theorem enterLoad_done (reff : Word) (m : Byte) (nb : BitVec 8) : (enterLoad reff m nb s).done = s.done := rfl
@[simp] theorem enterLoad_err (reff : Word) (m : Byte) (nb : BitVec 8) : (enterLoad reff m nb s).err = s.err := rfl
@[simp] theorem enterLoad_estk (reff : Word) (m : Byte) (nb : BitVec 8) : (enterLoad reff m nb s).estk = s.estk := rfl
@[simp] theorem enterLoad_wrbusy (reff : Word) (m : Byte) (nb : BitVec 8) :
    (enterLoad reff m nb s).wrbusy = s.wrbusy := rfl
@[simp] theorem enterLoad_errcode (reff : Word) (m : Byte) (nb : BitVec 8) :
    (enterLoad reff m nb s).errcode = s.errcode := rfl
@[simp] theorem enterLoad_rounds (reff : Word) (m : Byte) (nb : BitVec 8) :
    (enterLoad reff m nb s).rounds = s.rounds := rfl
@[simp] theorem enterLoad_srcLen (reff : Word) (m : Byte) (nb : BitVec 8) :
    (enterLoad reff m nb s).srcLen = s.srcLen := rfl
@[simp] theorem enterLoad_src2Len (reff : Word) (m : Byte) (nb : BitVec 8) :
    (enterLoad reff m nb s).src2Len = s.src2Len := rfl
@[simp] theorem enterLoad_dstLen (reff : Word) (m : Byte) (nb : BitVec 8) :
    (enterLoad reff m nb s).dstLen = s.dstLen := rfl
@[simp] theorem enterLoad_errinfo (reff : Word) (m : Byte) (nb : BitVec 8) :
    (enterLoad reff m nb s).errinfo = s.errinfo := rfl
@[simp] theorem enterLoad_fcode (reff : Word) (m : Byte) (nb : BitVec 8) :
    (enterLoad reff m nb s).fcode = s.fcode := rfl
@[simp] theorem enterLoad_ibuf (reff : Word) (m : Byte) (nb : BitVec 8) : (enterLoad reff m nb s).ibuf = s.ibuf := rfl
@[simp] theorem enterLoad_xbuf (reff : Word) (m : Byte) (nb : BitVec 8) : (enterLoad reff m nb s).xbuf = s.xbuf := rfl
@[simp] theorem enterLoad_obuf (reff : Word) (m : Byte) (nb : BitVec 8) : (enterLoad reff m nb s).obuf = s.obuf := rfl
@[simp] theorem enterLoad_latch (reff : Word) (m : Byte) (nb : BitVec 8) :
    (enterLoad reff m nb s).latch = { s.latch with reff := reff, m := m, nb := nb } := rfl
@[simp] theorem enterLoad_events (reff : Word) (m : Byte) (nb : BitVec 8) :
    (enterLoad reff m nb s).events = s.events := rfl
@[simp] theorem enterLoad_replies (reff : Word) (m : Byte) (nb : BitVec 8) :
    (enterLoad reff m nb s).replies = s.replies := rfl
@[simp] theorem enterLoad_requests (reff : Word) (m : Byte) (nb : BitVec 8) :
    (enterLoad reff m nb s).requests = s.requests := rfl
@[simp] theorem enterLoad_mix (reff : Word) (m : Byte) (nb : BitVec 8) : (enterLoad reff m nb s).mix = s.mix := rfl
@[simp] theorem enterLoad_draws (reff : Word) (m : Byte) (nb : BitVec 8) :
    (enterLoad reff m nb s).draws = s.draws := rfl
@[simp] theorem enterLoad_resets (reff : Word) (m : Byte) (nb : BitVec 8) :
    (enterLoad reff m nb s).resets = s.resets := rfl

/-! `storeObuf` -/

@[simp] theorem storeObuf_left (a : Nat) (v : List Byte) : (storeObuf a v s).left = s.left := rfl
@[simp] theorem storeObuf_right (a : Nat) (v : List Byte) : (storeObuf a v s).right = s.right := rfl
@[simp] theorem storeObuf_phase (a : Nat) (v : List Byte) : (storeObuf a v s).phase = s.phase := rfl
@[simp] theorem storeObuf_bcnt (a : Nat) (v : List Byte) : (storeObuf a v s).bcnt = s.bcnt := rfl
@[simp] theorem storeObuf_rcnt (a : Nat) (v : List Byte) : (storeObuf a v s).rcnt = s.rcnt := rfl
@[simp] theorem storeObuf_ie (a : Nat) (v : List Byte) : (storeObuf a v s).ie = s.ie := rfl
@[simp] theorem storeObuf_done (a : Nat) (v : List Byte) : (storeObuf a v s).done = s.done := rfl
@[simp] theorem storeObuf_err (a : Nat) (v : List Byte) : (storeObuf a v s).err = s.err := rfl
@[simp] theorem storeObuf_estk (a : Nat) (v : List Byte) : (storeObuf a v s).estk = s.estk := rfl
@[simp] theorem storeObuf_wrbusy (a : Nat) (v : List Byte) : (storeObuf a v s).wrbusy = s.wrbusy := rfl
@[simp] theorem storeObuf_errcode (a : Nat) (v : List Byte) : (storeObuf a v s).errcode = s.errcode := rfl
@[simp] theorem storeObuf_rounds (a : Nat) (v : List Byte) : (storeObuf a v s).rounds = s.rounds := rfl
@[simp] theorem storeObuf_srcLen (a : Nat) (v : List Byte) : (storeObuf a v s).srcLen = s.srcLen := rfl
@[simp] theorem storeObuf_src2Len (a : Nat) (v : List Byte) : (storeObuf a v s).src2Len = s.src2Len := rfl
@[simp] theorem storeObuf_dstLen (a : Nat) (v : List Byte) : (storeObuf a v s).dstLen = s.dstLen := rfl
@[simp] theorem storeObuf_errinfo (a : Nat) (v : List Byte) : (storeObuf a v s).errinfo = s.errinfo := rfl
@[simp] theorem storeObuf_fcode (a : Nat) (v : List Byte) : (storeObuf a v s).fcode = s.fcode := rfl
@[simp] theorem storeObuf_ibuf (a : Nat) (v : List Byte) : (storeObuf a v s).ibuf = s.ibuf := rfl
@[simp] theorem storeObuf_xbuf (a : Nat) (v : List Byte) : (storeObuf a v s).xbuf = s.xbuf := rfl
@[simp] theorem storeObuf_obuf (a : Nat) (v : List Byte) : (storeObuf a v s).obuf = memPutSeq s.obuf a v := rfl
@[simp] theorem storeObuf_latch (a : Nat) (v : List Byte) : (storeObuf a v s).latch = s.latch := rfl
@[simp] theorem storeObuf_events (a : Nat) (v : List Byte) : (storeObuf a v s).events = s.events := rfl
@[simp] theorem storeObuf_replies (a : Nat) (v : List Byte) : (storeObuf a v s).replies = s.replies := rfl
@[simp] theorem storeObuf_requests (a : Nat) (v : List Byte) : (storeObuf a v s).requests = s.requests := rfl
@[simp] theorem storeObuf_mix (a : Nat) (v : List Byte) : (storeObuf a v s).mix = s.mix := rfl
@[simp] theorem storeObuf_draws (a : Nat) (v : List Byte) : (storeObuf a v s).draws = s.draws := rfl
@[simp] theorem storeObuf_resets (a : Nat) (v : List Byte) : (storeObuf a v s).resets = s.resets := rfl

/-! `requestStep` -/

@[simp] theorem requestStep_left : (requestStep s).left = s.left := rfl
@[simp] theorem requestStep_right : (requestStep s).right = s.right := rfl
@[simp] theorem requestStep_phase : (requestStep s).phase = .fwait := rfl
@[simp] theorem requestStep_bcnt : (requestStep s).bcnt = s.bcnt := rfl
@[simp] theorem requestStep_rcnt : (requestStep s).rcnt = s.rcnt := rfl
@[simp] theorem requestStep_ie : (requestStep s).ie = s.ie := rfl
@[simp] theorem requestStep_done : (requestStep s).done = s.done := rfl
@[simp] theorem requestStep_err : (requestStep s).err = s.err := rfl
@[simp] theorem requestStep_estk : (requestStep s).estk = s.estk := rfl
@[simp] theorem requestStep_wrbusy : (requestStep s).wrbusy = s.wrbusy := rfl
@[simp] theorem requestStep_errcode : (requestStep s).errcode = s.errcode := rfl
@[simp] theorem requestStep_rounds : (requestStep s).rounds = s.rounds := rfl
@[simp] theorem requestStep_srcLen : (requestStep s).srcLen = s.srcLen := rfl
@[simp] theorem requestStep_src2Len : (requestStep s).src2Len = s.src2Len := rfl
@[simp] theorem requestStep_dstLen : (requestStep s).dstLen = s.dstLen := rfl
@[simp] theorem requestStep_errinfo : (requestStep s).errinfo = s.errinfo := rfl
@[simp] theorem requestStep_fcode : (requestStep s).fcode = s.fcode := rfl
@[simp] theorem requestStep_ibuf : (requestStep s).ibuf = s.ibuf := rfl
@[simp] theorem requestStep_xbuf : (requestStep s).xbuf = s.xbuf := rfl
@[simp] theorem requestStep_obuf : (requestStep s).obuf = s.obuf := rfl
@[simp] theorem requestStep_latch : (requestStep s).latch = s.latch := rfl
@[simp] theorem requestStep_events : (requestStep s).events = s.events := rfl
@[simp] theorem requestStep_replies : (requestStep s).replies = s.replies := rfl
@[simp] theorem requestStep_requests : (requestStep s).requests = s.right :: s.requests := rfl
@[simp] theorem requestStep_mix : (requestStep s).mix = s.mix := rfl
@[simp] theorem requestStep_draws : (requestStep s).draws = s.draws := rfl
@[simp] theorem requestStep_resets : (requestStep s).resets = s.resets := rfl

/-! `finishWith` -/

@[simp] theorem finishWith_left (len : Nat) : (finishWith len s).left = s.left := rfl
@[simp] theorem finishWith_right (len : Nat) : (finishWith len s).right = s.right := rfl
@[simp] theorem finishWith_phase (len : Nat) : (finishWith len s).phase = .idle := rfl
@[simp] theorem finishWith_bcnt (len : Nat) : (finishWith len s).bcnt = s.bcnt := rfl
@[simp] theorem finishWith_rcnt (len : Nat) : (finishWith len s).rcnt = s.rcnt := rfl
@[simp] theorem finishWith_ie (len : Nat) : (finishWith len s).ie = s.ie := rfl
@[simp] theorem finishWith_done (len : Nat) : (finishWith len s).done = true := rfl
@[simp] theorem finishWith_err (len : Nat) : (finishWith len s).err = s.err := rfl
@[simp] theorem finishWith_estk (len : Nat) : (finishWith len s).estk = s.estk := rfl
@[simp] theorem finishWith_wrbusy (len : Nat) : (finishWith len s).wrbusy = s.wrbusy := rfl
@[simp] theorem finishWith_errcode (len : Nat) : (finishWith len s).errcode = s.errcode := rfl
@[simp] theorem finishWith_rounds (len : Nat) : (finishWith len s).rounds = s.rounds := rfl
@[simp] theorem finishWith_srcLen (len : Nat) : (finishWith len s).srcLen = s.srcLen := rfl
@[simp] theorem finishWith_src2Len (len : Nat) : (finishWith len s).src2Len = s.src2Len := rfl
@[simp] theorem finishWith_dstLen (len : Nat) : (finishWith len s).dstLen = BitVec.ofNat 32 len := rfl
@[simp] theorem finishWith_errinfo (len : Nat) : (finishWith len s).errinfo = s.errinfo := rfl
@[simp] theorem finishWith_fcode (len : Nat) : (finishWith len s).fcode = s.fcode := rfl
@[simp] theorem finishWith_ibuf (len : Nat) : (finishWith len s).ibuf = s.ibuf := rfl
@[simp] theorem finishWith_xbuf (len : Nat) : (finishWith len s).xbuf = s.xbuf := rfl
@[simp] theorem finishWith_obuf (len : Nat) : (finishWith len s).obuf = s.obuf := rfl
@[simp] theorem finishWith_latch (len : Nat) : (finishWith len s).latch = s.latch := rfl
@[simp] theorem finishWith_events (len : Nat) : (finishWith len s).events = s.events := rfl
@[simp] theorem finishWith_replies (len : Nat) : (finishWith len s).replies = s.replies := rfl
@[simp] theorem finishWith_requests (len : Nat) : (finishWith len s).requests = s.requests := rfl
@[simp] theorem finishWith_mix (len : Nat) : (finishWith len s).mix = s.mix := rfl
@[simp] theorem finishWith_draws (len : Nat) : (finishWith len s).draws = s.draws := rfl
@[simp] theorem finishWith_resets (len : Nat) : (finishWith len s).resets = s.resets := rfl

/-! `resetRegisters` -/

@[simp] theorem resetRegisters_left : (resetRegisters s).left = s.left := rfl
@[simp] theorem resetRegisters_right : (resetRegisters s).right = s.right := rfl
@[simp] theorem resetRegisters_phase : (resetRegisters s).phase = .idle := rfl
@[simp] theorem resetRegisters_bcnt : (resetRegisters s).bcnt = 0 := rfl
@[simp] theorem resetRegisters_rcnt : (resetRegisters s).rcnt = 0 := rfl
@[simp] theorem resetRegisters_ie : (resetRegisters s).ie = false := rfl
@[simp] theorem resetRegisters_done : (resetRegisters s).done = false := rfl
@[simp] theorem resetRegisters_err : (resetRegisters s).err = false := rfl
@[simp] theorem resetRegisters_estk : (resetRegisters s).estk = false := rfl
@[simp] theorem resetRegisters_wrbusy : (resetRegisters s).wrbusy = false := rfl
@[simp] theorem resetRegisters_errcode : (resetRegisters s).errcode = 0 := rfl
@[simp] theorem resetRegisters_rounds : (resetRegisters s).rounds = 32 := rfl
@[simp] theorem resetRegisters_srcLen : (resetRegisters s).srcLen = 0 := rfl
@[simp] theorem resetRegisters_src2Len : (resetRegisters s).src2Len = 0 := rfl
@[simp] theorem resetRegisters_dstLen : (resetRegisters s).dstLen = 0 := rfl
@[simp] theorem resetRegisters_errinfo : (resetRegisters s).errinfo = 0 := rfl
@[simp] theorem resetRegisters_fcode : (resetRegisters s).fcode = 0 := rfl
@[simp] theorem resetRegisters_ibuf : (resetRegisters s).ibuf = s.ibuf := rfl
@[simp] theorem resetRegisters_xbuf : (resetRegisters s).xbuf = s.xbuf := rfl
@[simp] theorem resetRegisters_obuf : (resetRegisters s).obuf = s.obuf := rfl
@[simp] theorem resetRegisters_latch : (resetRegisters s).latch = s.latch := rfl
@[simp] theorem resetRegisters_events : (resetRegisters s).events = s.events := rfl
@[simp] theorem resetRegisters_replies : (resetRegisters s).replies = s.replies := rfl
@[simp] theorem resetRegisters_requests : (resetRegisters s).requests = s.requests := rfl
@[simp] theorem resetRegisters_mix : (resetRegisters s).mix = s.mix := rfl
@[simp] theorem resetRegisters_draws : (resetRegisters s).draws = s.draws := rfl
@[simp] theorem resetRegisters_resets : (resetRegisters s).resets = s.resets := rfl

/-! `loseHidden` -/

@[simp] theorem loseHidden_phase : (loseHidden s).phase = s.phase := rfl
@[simp] theorem loseHidden_bcnt : (loseHidden s).bcnt = s.bcnt := rfl
@[simp] theorem loseHidden_rcnt : (loseHidden s).rcnt = s.rcnt := rfl
@[simp] theorem loseHidden_ie : (loseHidden s).ie = s.ie := rfl
@[simp] theorem loseHidden_done : (loseHidden s).done = s.done := rfl
@[simp] theorem loseHidden_err : (loseHidden s).err = s.err := rfl
@[simp] theorem loseHidden_estk : (loseHidden s).estk = s.estk := rfl
@[simp] theorem loseHidden_wrbusy : (loseHidden s).wrbusy = s.wrbusy := rfl
@[simp] theorem loseHidden_errcode : (loseHidden s).errcode = s.errcode := rfl
@[simp] theorem loseHidden_rounds : (loseHidden s).rounds = s.rounds := rfl
@[simp] theorem loseHidden_srcLen : (loseHidden s).srcLen = s.srcLen := rfl
@[simp] theorem loseHidden_src2Len : (loseHidden s).src2Len = s.src2Len := rfl
@[simp] theorem loseHidden_dstLen : (loseHidden s).dstLen = s.dstLen := rfl
@[simp] theorem loseHidden_errinfo : (loseHidden s).errinfo = s.errinfo := rfl
@[simp] theorem loseHidden_fcode : (loseHidden s).fcode = s.fcode := rfl
@[simp] theorem loseHidden_ibuf : (loseHidden s).ibuf = s.ibuf := rfl
@[simp] theorem loseHidden_xbuf : (loseHidden s).xbuf = s.xbuf := rfl
@[simp] theorem loseHidden_obuf : (loseHidden s).obuf = s.obuf := rfl
@[simp] theorem loseHidden_events : (loseHidden s).events = s.events := rfl
@[simp] theorem loseHidden_replies : (loseHidden s).replies = s.replies := rfl
@[simp] theorem loseHidden_requests : (loseHidden s).requests = s.requests := rfl
@[simp] theorem loseHidden_mix : (loseHidden s).mix = s.mix := rfl
@[simp] theorem loseHidden_draws : (loseHidden s).draws = s.draws + 3 := rfl
@[simp] theorem loseHidden_resets : (loseHidden s).resets = s.resets := rfl

/-! `softReset` -/

@[simp] theorem softReset_phase : (softReset s).phase = .idle := rfl
@[simp] theorem softReset_bcnt : (softReset s).bcnt = 0 := rfl
@[simp] theorem softReset_rcnt : (softReset s).rcnt = 0 := rfl
@[simp] theorem softReset_ie : (softReset s).ie = false := rfl
@[simp] theorem softReset_done : (softReset s).done = false := rfl
@[simp] theorem softReset_err : (softReset s).err = false := rfl
@[simp] theorem softReset_estk : (softReset s).estk = false := rfl
@[simp] theorem softReset_wrbusy : (softReset s).wrbusy = false := rfl
@[simp] theorem softReset_errcode : (softReset s).errcode = 0 := rfl
@[simp] theorem softReset_rounds : (softReset s).rounds = 32 := rfl
@[simp] theorem softReset_srcLen : (softReset s).srcLen = 0 := rfl
@[simp] theorem softReset_src2Len : (softReset s).src2Len = 0 := rfl
@[simp] theorem softReset_dstLen : (softReset s).dstLen = 0 := rfl
@[simp] theorem softReset_errinfo : (softReset s).errinfo = 0 := rfl
@[simp] theorem softReset_fcode : (softReset s).fcode = 0 := rfl
@[simp] theorem softReset_ibuf : (softReset s).ibuf = s.ibuf := rfl
@[simp] theorem softReset_xbuf : (softReset s).xbuf = s.xbuf := rfl
@[simp] theorem softReset_obuf : (softReset s).obuf = s.obuf := rfl
@[simp] theorem softReset_events : (softReset s).events = s.events := rfl
@[simp] theorem softReset_replies : (softReset s).replies = s.replies := rfl
@[simp] theorem softReset_requests : (softReset s).requests = s.requests := rfl
@[simp] theorem softReset_mix : (softReset s).mix = s.mix := rfl
@[simp] theorem softReset_draws : (softReset s).draws = s.draws + 3 := rfl
@[simp] theorem softReset_resets : (softReset s).resets = s.resets := rfl

/-! `hardReset` -/

@[simp] theorem hardReset_phase : (hardReset s).phase = .idle := rfl
@[simp] theorem hardReset_bcnt : (hardReset s).bcnt = 0 := rfl
@[simp] theorem hardReset_rcnt : (hardReset s).rcnt = 0 := rfl
@[simp] theorem hardReset_ie : (hardReset s).ie = false := rfl
@[simp] theorem hardReset_done : (hardReset s).done = false := rfl
@[simp] theorem hardReset_err : (hardReset s).err = false := rfl
@[simp] theorem hardReset_estk : (hardReset s).estk = false := rfl
@[simp] theorem hardReset_wrbusy : (hardReset s).wrbusy = false := rfl
@[simp] theorem hardReset_errcode : (hardReset s).errcode = 0 := rfl
@[simp] theorem hardReset_rounds : (hardReset s).rounds = 32 := rfl
@[simp] theorem hardReset_srcLen : (hardReset s).srcLen = 0 := rfl
@[simp] theorem hardReset_src2Len : (hardReset s).src2Len = 0 := rfl
@[simp] theorem hardReset_dstLen : (hardReset s).dstLen = 0 := rfl
@[simp] theorem hardReset_errinfo : (hardReset s).errinfo = 0 := rfl
@[simp] theorem hardReset_fcode : (hardReset s).fcode = 0 := rfl
@[simp] theorem hardReset_ibuf : (hardReset s).ibuf = [] := rfl
@[simp] theorem hardReset_xbuf : (hardReset s).xbuf = [] := rfl
@[simp] theorem hardReset_obuf : (hardReset s).obuf = [] := rfl
@[simp] theorem hardReset_events : (hardReset s).events = s.events := rfl
@[simp] theorem hardReset_replies : (hardReset s).replies = s.replies := rfl
@[simp] theorem hardReset_requests : (hardReset s).requests = s.requests := rfl
@[simp] theorem hardReset_mix : (hardReset s).mix = s.mix := rfl
@[simp] theorem hardReset_draws : (hardReset s).draws = s.draws + 3 := rfl
@[simp] theorem hardReset_resets : (hardReset s).resets = s.resets + 1 := rfl

/-! `reply` -/

@[simp] theorem reply_left (r : Reply) : (reply r s).left = s.left := rfl
@[simp] theorem reply_right (r : Reply) : (reply r s).right = s.right := rfl
@[simp] theorem reply_phase (r : Reply) : (reply r s).phase = s.phase := rfl
@[simp] theorem reply_bcnt (r : Reply) : (reply r s).bcnt = s.bcnt := rfl
@[simp] theorem reply_rcnt (r : Reply) : (reply r s).rcnt = s.rcnt := rfl
@[simp] theorem reply_ie (r : Reply) : (reply r s).ie = s.ie := rfl
@[simp] theorem reply_done (r : Reply) : (reply r s).done = s.done := rfl
@[simp] theorem reply_err (r : Reply) : (reply r s).err = s.err := rfl
@[simp] theorem reply_estk (r : Reply) : (reply r s).estk = s.estk := rfl
@[simp] theorem reply_wrbusy (r : Reply) : (reply r s).wrbusy = s.wrbusy := rfl
@[simp] theorem reply_errcode (r : Reply) : (reply r s).errcode = s.errcode := rfl
@[simp] theorem reply_rounds (r : Reply) : (reply r s).rounds = s.rounds := rfl
@[simp] theorem reply_srcLen (r : Reply) : (reply r s).srcLen = s.srcLen := rfl
@[simp] theorem reply_src2Len (r : Reply) : (reply r s).src2Len = s.src2Len := rfl
@[simp] theorem reply_dstLen (r : Reply) : (reply r s).dstLen = s.dstLen := rfl
@[simp] theorem reply_errinfo (r : Reply) : (reply r s).errinfo = s.errinfo := rfl
@[simp] theorem reply_fcode (r : Reply) : (reply r s).fcode = s.fcode := rfl
@[simp] theorem reply_ibuf (r : Reply) : (reply r s).ibuf = s.ibuf := rfl
@[simp] theorem reply_xbuf (r : Reply) : (reply r s).xbuf = s.xbuf := rfl
@[simp] theorem reply_obuf (r : Reply) : (reply r s).obuf = s.obuf := rfl
@[simp] theorem reply_latch (r : Reply) : (reply r s).latch = s.latch := rfl
@[simp] theorem reply_events (r : Reply) : (reply r s).events = s.events := rfl
@[simp] theorem reply_replies (r : Reply) : (reply r s).replies = r :: s.replies := rfl
@[simp] theorem reply_requests (r : Reply) : (reply r s).requests = s.requests := rfl
@[simp] theorem reply_mix (r : Reply) : (reply r s).mix = s.mix := rfl
@[simp] theorem reply_draws (r : Reply) : (reply r s).draws = s.draws := rfl
@[simp] theorem reply_resets (r : Reply) : (reply r s).resets = s.resets := rfl

/-! `clearStatus` -/

@[simp] theorem clearStatus_left (v : Word) : (clearStatus v s).left = s.left := rfl
@[simp] theorem clearStatus_right (v : Word) : (clearStatus v s).right = s.right := rfl
@[simp] theorem clearStatus_phase (v : Word) : (clearStatus v s).phase = s.phase := rfl
@[simp] theorem clearStatus_bcnt (v : Word) : (clearStatus v s).bcnt = s.bcnt := rfl
@[simp] theorem clearStatus_rcnt (v : Word) : (clearStatus v s).rcnt = s.rcnt := rfl
@[simp] theorem clearStatus_ie (v : Word) : (clearStatus v s).ie = s.ie := rfl
@[simp] theorem clearStatus_done (v : Word) : (clearStatus v s).done = (s.done && !v.getLsbD 1) := rfl
@[simp] theorem clearStatus_err (v : Word) : (clearStatus v s).err = s.err := rfl
@[simp] theorem clearStatus_estk (v : Word) : (clearStatus v s).estk = s.estk := rfl
@[simp] theorem clearStatus_wrbusy (v : Word) : (clearStatus v s).wrbusy = (s.wrbusy && !v.getLsbD 4) := rfl
@[simp] theorem clearStatus_errcode (v : Word) : (clearStatus v s).errcode = s.errcode := rfl
@[simp] theorem clearStatus_rounds (v : Word) : (clearStatus v s).rounds = s.rounds := rfl
@[simp] theorem clearStatus_srcLen (v : Word) : (clearStatus v s).srcLen = s.srcLen := rfl
@[simp] theorem clearStatus_src2Len (v : Word) : (clearStatus v s).src2Len = s.src2Len := rfl
@[simp] theorem clearStatus_dstLen (v : Word) : (clearStatus v s).dstLen = s.dstLen := rfl
@[simp] theorem clearStatus_errinfo (v : Word) : (clearStatus v s).errinfo = s.errinfo := rfl
@[simp] theorem clearStatus_fcode (v : Word) : (clearStatus v s).fcode = s.fcode := rfl
@[simp] theorem clearStatus_ibuf (v : Word) : (clearStatus v s).ibuf = s.ibuf := rfl
@[simp] theorem clearStatus_xbuf (v : Word) : (clearStatus v s).xbuf = s.xbuf := rfl
@[simp] theorem clearStatus_obuf (v : Word) : (clearStatus v s).obuf = s.obuf := rfl
@[simp] theorem clearStatus_latch (v : Word) : (clearStatus v s).latch = s.latch := rfl
@[simp] theorem clearStatus_events (v : Word) : (clearStatus v s).events = s.events := rfl
@[simp] theorem clearStatus_replies (v : Word) : (clearStatus v s).replies = s.replies := rfl
@[simp] theorem clearStatus_requests (v : Word) : (clearStatus v s).requests = s.requests := rfl
@[simp] theorem clearStatus_mix (v : Word) : (clearStatus v s).mix = s.mix := rfl
@[simp] theorem clearStatus_draws (v : Word) : (clearStatus v s).draws = s.draws := rfl
@[simp] theorem clearStatus_resets (v : Word) : (clearStatus v s).resets = s.resets := rfl

end Sys2Proof.Machine
end

