-- ==== Sys2Proof/Laws/Sequencer.lean ====
section
/-! SUPPORT. One lemma per shared step of the sequencer: everything it can do. -/

namespace Sys2Proof.Machine

theorem withinBuffer_le {n : Nat} (r : Res) (h : n ≤ 4096) : withinBuffer n r = r := by
  simp [withinBuffer, h]

theorem withinBuffer_next {n : Nat} {r : Res} {t : State} (h : withinBuffer n r = .next t) :
    n ≤ 4096 ∧ r = .next t := by
  unfold withinBuffer at h
  split at h
  · exact ⟨by assumption, h⟩
  · cases h

/-- An `EXEC` step's end answers a next state exactly when its result fits, and which (R177). -/
theorem putResult_next {v : List Byte} {s t : State} (h : putResult v s = .next t) :
    v.length ≤ 4096 ∧
      t = { s with
        obuf := memPutSeq s.obuf 0 v, dstLen := BitVec.ofNat 32 v.length, done := true
        phase := .idle } := by
  obtain ⟨hl, h⟩ := withinBuffer_next h
  exact ⟨hl, by cases h; rfl⟩

theorem putResult_le {v : List Byte} (s : State) (h : v.length ≤ 4096) :
    putResult v s = .next { s with
      obuf := memPutSeq s.obuf 0 v, dstLen := BitVec.ofNat 32 v.length, done := true
      phase := .idle } := withinBuffer_le _ h

/-- The `LOAD` step (R178). -/
theorem loadStep_next {p : Nat → Byte} {s t : State} (h : loadStep p s = .next t) :
    (s.bcnt.toNat + 1) * 32 ≤ 4096 ∧
      t = { s with
        left := (blockAt p s.bcnt.toNat).1, right := (blockAt p s.bcnt.toNat).2, phase := .freq } := by
  obtain ⟨hl, h⟩ := withinBuffer_next h
  exact ⟨hl, by cases h; rfl⟩

theorem loadStep_le (p : Nat → Byte) (s : State) (h : (s.bcnt.toNat + 1) * 32 ≤ 4096) :
    loadStep p s = .next { s with
      left := (blockAt p s.bcnt.toNat).1, right := (blockAt p s.bcnt.toNat).2, phase := .freq } :=
  withinBuffer_le _ h

/-- The `FRESP` step on an answer with a value (R180). -/
@[simp] theorem responseStep_ok (y : Half) (s : State) :
    responseStep (.ok y) s = { s with
      left := s.right, right := halfXor s.left y, rcnt := s.rcnt + 1
      phase := if s.rcnt + 1 = s.latch.reff then .store else .freq } := rfl

/-- The `FRESP` step on a failure (R180, R230). -/
@[simp] theorem responseStep_fail (code : Byte) (s : State) :
    responseStep (.fail code) s = raise .mixFault 0 { s with fcode := code } := rfl

/-- The `STORE` step (R181). -/
theorem storeStep_next {b : Block} {s t : State} (h : storeStep b s = .next t) :
    (s.bcnt.toNat + 1) * 32 ≤ 4096 ∧
      t = { s with
        obuf := memPutSeq s.obuf (s.bcnt.toNat * 32) (blockBytes b), bcnt := s.bcnt + 1, rcnt := 0
        phase := if s.bcnt + 1 = s.latch.nb.setWidth 32 then .finish else .load } := by
  obtain ⟨hl, h⟩ := withinBuffer_next h
  exact ⟨hl, by cases h; rfl⟩

theorem storeStep_le (b : Block) (s : State) (h : (s.bcnt.toNat + 1) * 32 ≤ 4096) :
    storeStep b s = .next { s with
      obuf := memPutSeq s.obuf (s.bcnt.toNat * 32) (blockBytes b), bcnt := s.bcnt + 1, rcnt := 0
      phase := if s.bcnt + 1 = s.latch.nb.setWidth 32 then .finish else .load } :=
  withinBuffer_le _ h

end Sys2Proof.Machine
end

