-- ==== Sys2Proof/Laws/Commands.lean ====
section
/-! SUPPORT. What one step of a command can do: an inversion of `exec` while idle (its acceptance) and
one while a command is in progress, from which the invariants follow without unfolding the meanings. -/

namespace Sys2Proof.Machine

/-- The `FINISH` step of `DEC` (R182): a length, or the error. -/
theorem finishDec_next {s t : State} (h : finishDec s = .next t) :
    s.latch.n.toNat ≤ 4096 ∧
      ((∃ v, unpadV (storedOutput s) = .ok v ∧ t = finishWith v.length s) ∨
       ∃ m, unpadV (storedOutput s) = .error m ∧ t = raise .paddingError (m.setWidth 32) s) := by
  obtain ⟨hl, h⟩ := withinBuffer_next h
  refine ⟨hl, ?_⟩
  rw [unpad_eq_unpadV] at h
  split at h
  · exact .inl ⟨_, ‹_›, by cases h; rfl⟩
  · exact .inr ⟨_, ‹_›, by cases h; rfl⟩

/-- What the acceptance of a command can do (R176): an error, a phase entered, or the soft reset. -/
inductive Accepts (i : Instr) (s : State) : State → Prop where
  | error (e : ErrorKind) (info : Word) : Accepts i s (raise e info (beginCommand i s))
  | exec : Accepts i s (enterExec (beginCommand i s))
  | load (reff : Word) (m : Byte) (nb : BitVec 8) : Accepts i s (enterLoad reff m nb (beginCommand i s))
  | reset : i = .rst → Accepts i s (softReset (acceptClear s))

/-- While idle a command answers a next state, one its acceptance can give (R176). -/
theorem exec_idle (i : Instr) {s : State} (hp : s.phase = .idle) :
    ∃ t, exec i s = .next t ∧ Accepts i s t := by
  cases i
  case rst => exact ⟨_, by simp [exec, execRst, hp], .reset rfl⟩
  all_goals
    simp only [exec, execXor, execRound, execFlip, execPad, execUnpad, execEnc, execDec, hp,
      acceptXor, acceptRound, acceptFlip, acceptPad, acceptUnpad, acceptEnc, acceptDec]
    refine ⟨_, rfl, ?_⟩
    repeat' split
    all_goals first | exact .error _ _ | exact .exec | exact .load _ _ _

/-- What a step of a command in progress can do (R177 to R182). -/
inductive Runs (s : State) : State → Prop where
  /-- the `EXEC` step with a result -/
  | result (v : List Byte) : s.phase = .exec → v.length ≤ 4096 →
      Runs s { s with
        obuf := memPutSeq s.obuf 0 v, dstLen := BitVec.ofNat 32 v.length, done := true
        phase := .idle }
  /-- the `EXEC` or `FINISH` step with an error -/
  | error (e : ErrorKind) (info : Word) : s.phase = .exec ∨ s.phase = .finish →
      Runs s (raise e info s)
  /-- the `LOAD` step -/
  | load (l r : Half) : s.phase = .load → Runs s { s with left := l, right := r, phase := .freq }
  /-- the `FREQ` step -/
  | request : s.phase = .freq → Runs s (requestStep s)
  /-- the `FRESP` step -/
  | response : s.phase = .fwait → Runs s (responseStep (mixFn s.mix s.right) s)
  /-- the `STORE` step -/
  | store (b : Block) : s.phase = .store → (s.bcnt.toNat + 1) * 32 ≤ 4096 →
      Runs s { s with
        obuf := memPutSeq s.obuf (s.bcnt.toNat * 32) (blockBytes b), bcnt := s.bcnt + 1, rcnt := 0
        phase := if s.bcnt + 1 = s.latch.nb.setWidth 32 then .finish else .load }
  /-- the `FINISH` step with a result length: of the stored blocks, or no more than a buffer holds -/
  | finish (len : Nat) : s.phase = .finish → len = s.latch.nb.toNat * 32 ∨ len ≤ 4096 →
      Runs s (finishWith len s)

/-- While a command is in progress, a step that answers a next state is one of the sequencer's (R177 to R182). -/
theorem exec_busy {i : Instr} {s t : State} (hp : s.phase ≠ .idle) (h : exec i s = .next t) :
    Runs s t := by
  cases i <;>
    simp only [exec, execXor, execRound, execFlip, execPad, execUnpad, execEnc, execDec, execRst] at h <;>
    split at h <;> rename_i hq <;> try (first | exact absurd hq hp | (cases h; done))
  all_goals try (cases h; exact .request hq)
  all_goals try (cases h; exact .response hq)
  all_goals try (cases h; exact .finish _ hq (by first | exact .inl rfl | exact .inr (by decide)))
  all_goals try (obtain ⟨-, rfl⟩ := loadStep_next h; exact .load _ _ hq)
  all_goals try (obtain ⟨hl, rfl⟩ := storeStep_next h; exact .store _ hq hl)
  all_goals try (obtain ⟨hl, rfl⟩ := putResult_next h; exact .result _ hq hl)
  iterate 2
    · split at h
      · obtain ⟨hl, rfl⟩ := putResult_next h; exact .result _ hq hl
      · cases h; exact .error _ _ (.inl hq)
  · obtain ⟨-, h⟩ := withinBuffer_next h
    split at h
    · obtain ⟨hl, rfl⟩ := putResult_next h; exact .result _ hq hl
    · cases h; exact .error _ _ (.inl hq)
  · obtain ⟨hn, ⟨v, hv, rfl⟩ | ⟨m, -, rfl⟩⟩ := finishDec_next h
    · have hle := unpadV_length_le hv
      simp only [storedOutput, bufSlice_length] at hle
      exact .finish _ hq (.inr (by omega))
    · exact .error _ _ (.inr hq)

end Sys2Proof.Machine
end

