-- ==== Sys2Proof/Laws/HostPort.lean ====
section
/-! SUPPORT. What the host port can do: a read changes nothing but the port's own record, and a write is
one of five things. -/

namespace Sys2Proof.Machine

theorem busy_eq_true {s : State} : busy s = true ↔ s.phase ≠ .idle := by
  simp [busy]

theorem busy_eq_false {s : State} : busy s = false ↔ s.phase = .idle := by
  simp [busy]

/-- A host read leaves everything but the answer and the number of free values used (R69). -/
theorem hostRead_frame (addr : BitVec 14) (size : Size) (s : State) :
    ∃ answer d, hostRead addr size s = { s with replies := answer :: s.replies, draws := d } := by
  unfold hostRead
  split <;> exact ⟨_, _, rfl⟩

/-- A buffer byte the host reaches is below `CAP` (R60). -/
theorem bufTarget_lt {a i : Nat} {b : Buf} (h : bufTarget a = .buf b i) (ha : a < 16384) :
    i < 4096 := by
  unfold bufTarget at h
  split at h
  · cases h; omega
  · split at h <;> cases h <;> omega

/-- A legal access of the host to a buffer stays inside it (R66). -/
theorem target_buf {addr : BitVec 14} {size : Size} {b : Buf} {i : Nat}
    (h : target addr size = some (.buf b i)) :
    i < 4096 ∧ (size = .word → i % 4 = 0 ∧ i + 3 < 4096) := by
  have hlt : addr.toNat < 16384 := addr.isLt
  unfold target at h
  cases size with
  | byte =>
    simp only at h
    split at h
    · cases h
    · simp only [Option.some.injEq] at h
      exact ⟨bufTarget_lt h hlt, by intro hc; cases hc⟩
  | word =>
    simp only at h
    split at h
    · cases h
    · rename_i h4
      split at h
      · cases hr : regAt (addr.toNat / 4) <;> simp [hr] at h
      · simp only [Option.some.injEq] at h
        have hi := bufTarget_lt h hlt
        have hm : i % 4 = 0 := by
          unfold bufTarget at h
          split at h
          · cases h; omega
          · split at h <;> cases h <;> omega
        exact ⟨hi, fun _ => ⟨hm, by omega⟩⟩

/-- What a host write can do (R64, R66, R70). -/
inductive WriteDoes (s : State) : State × Option Word → Prop where
  | error : WriteDoes s (reply .error s, none)
  | dropped : busy s = true → WriteDoes s (reply .ok { s with wrbusy := true }, none)
  | command (w : Word) : busy s = false → WriteDoes s (reply .ok s, some w)
  | register (r : Reg) (v : Word) : busy s = false → WriteDoes s (reply .ok (regWrite r v s), none)
  | buffer (b : Buf) (i : Nat) (v : List Byte) : busy s = false → b ≠ .obuf → i + v.length ≤ 4096 →
      WriteDoes s (reply .ok (bufWrite b i v s), none)

theorem hostWrite_does (addr : BitVec 14) (data : WriteData) (s : State) :
    WriteDoes s (hostWrite addr data s) := by
  unfold hostWrite
  split
  · exact .error
  · exact .error
  · rename_i t hno ht
    by_cases hb : busy s = true
    · simp only [hb, if_true]; exact .dropped hb
    · have hb' : busy s = false := by simpa using hb
      simp only [hb', Bool.false_eq_true, if_false]
      split
      · exact .command _ hb'
      · exact .register _ _ hb'
      · rename_i b i
        refine .buffer b i _ hb' (fun h => hno i (by rw [h])) ?_
        have := target_buf ht
        cases data with
        | byte v => simp [writeBytes]; omega
        | word v => simp [writeBytes]; have := this.2 rfl; omega

end Sys2Proof.Machine
end

