-- ==== Sys2Proof/Laws/PerInstr.lean ====
section
/-! SUPPORT. Statements about each command as syntax (R90, R92): its word is well-formed, and its word's
fields are those of the opcode map. -/

namespace Sys2Proof.Laws.CommandWord

/-- A command's fields pass the checks of the format, and its word holds exactly these fields. -/
def Statement (i : Instr) : Prop := i.wellFormed = true ∧ fieldsOf (encode i) = i.fields

theorem xor : Statement .xor := by unfold Statement; decide

theorem round : Statement .round := by unfold Statement; decide

theorem flip : Statement .flip := by unfold Statement; decide

theorem pad : Statement .pad := by unfold Statement; decide

theorem unpad : Statement .unpad := by unfold Statement; decide

theorem enc : Statement .enc := by unfold Statement; decide

theorem dec : Statement .dec := by unfold Statement; decide

theorem rst : Statement .rst := by unfold Statement; decide

end Sys2Proof.Laws.CommandWord
end

