-- ==== Sys2Proof/Laws/Script.lean ====
section
/-! SUPPORT. The small laws of the host script: the offsets its lines carry are those of the places they name, and
what is no line makes no access; what an ended run and its end state say (R284). -/

namespace Sys2Proof.Machine

/-- The access of a register line reaches that register (R27, R96). -/
theorem target_regAddr (r : Reg) : target (regAddr r) .word = some (.reg r) := by cases r <;> decide

/-- Below `CAP` the offset of a buffer byte is its own: nothing wraps (R61). -/
theorem bufAddr_toNat (b : Buf) {i : Nat} (h : i < Config.cap) : (bufAddr b i).toNat = bufBase b + i := by
  simp only [Config.cap] at h
  cases b <;> simp only [bufAddr, bufBase, BitVec.toNat_ofNat] <;> omega

/-- The offset of a buffer byte reaches that byte (R60, R61). -/
theorem bufTarget_base (b : Buf) {i : Nat} (h : i < Config.cap) : bufTarget (bufBase b + i) = .buf b i := by
  simp only [Config.cap] at h
  unfold bufTarget
  cases b
  · have e : bufBase .ibuf = 0x1000 := rfl
    rw [e, if_pos (by omega), Nat.add_sub_cancel_left]
  · have e : bufBase .xbuf = 0x2000 := rfl
    rw [e, if_neg (by omega), if_pos (by omega), Nat.add_sub_cancel_left]
  · have e : bufBase .obuf = 0x3000 := rfl
    rw [e, if_neg (by omega), if_neg (by omega), Nat.add_sub_cancel_left]

theorem bufBase_bounds (b : Buf) : 0x1000 ≤ bufBase b ∧ bufBase b % 4 = 0 := by cases b <;> decide

/-- The access of a byte line reaches the byte it names (R61, R96). -/
theorem target_bufAddr_byte (b : Buf) {i : Nat} (h : i < Config.cap) :
    target (bufAddr b i) .byte = some (.buf b i) := by
  have hb := bufBase_bounds b
  simp only [target, bufAddr_toNat b h]
  rw [if_neg (by omega), bufTarget_base b h]

/-- The access of a word line reaches the word it names (R61, R96). -/
theorem target_bufAddr_word (b : Buf) {i : Nat} (h : i < Config.cap) (h4 : i % 4 = 0) :
    target (bufAddr b i) .word = some (.buf b i) := by
  have hb := bufBase_bounds b
  simp only [target, bufAddr_toNat b h]
  rw [if_neg (by omega), if_neg (by omega), bufTarget_base b h]

/-- What is no line of a script makes no access (log 22). -/
@[simp] theorem lineEvents_of_not_wellFormed {l : Line} (h : lineWellFormed l = false) : lineEvents l = [] := by
  simp [lineEvents, h]

/-- A line of a script makes the accesses R96 writes beside it. -/
@[simp] theorem lineEvents_of_wellFormed {l : Line} (h : lineWellFormed l = true) :
    lineEvents l = lineAccesses l := by
  simp [lineEvents, h]

/-- A script asserts something that holds only where each of its lines is one. -/
theorem wellFormed_of_scriptHolds {ls : List Line} {rs : List Reply} {seen : List Seen}
    (h : scriptHolds ls rs seen = true) : ∀ l ∈ ls, lineWellFormed l = true := by
  induction ls generalizing rs seen with
  | nil => simp
  | cons l ls ih =>
    simp only [scriptHolds, Bool.and_eq_true] at h
    obtain ⟨⟨hl, -⟩, h⟩ := h
    split at h
    · exact List.forall_mem_cons.mpr ⟨hl, ih h⟩
    · cases h

/-- What it says that a script has ended (R284). -/
theorem scriptEnded_iff {ls : List Line} {s t : State} :
    scriptEnded ls s t = true ↔ scriptExecuted ls s t = true ∧ t.phase = .idle := by
  simp only [scriptEnded, Bool.and_eq_true, Bool.not_eq_true', busy_eq_false]

/-- A script whose command still runs has no end state (R284). -/
theorem scriptEndState_busy {ls : List Line} {s t : State} (h : t.phase ≠ .idle) :
    scriptEndState ls s t = none :=
  if_neg fun he => h (scriptEnded_iff.mp he).2

/-- A script that has ended has the end state that the state gives (R284). -/
theorem scriptEndState_ended {ls : List Line} {s t : State} (h : scriptEnded ls s t = true) :
    scriptEndState ls s t = some (endState t) := if_pos h

theorem mem_allRegs (r : Reg) : r ∈ allRegs := by cases r <;> decide

/-- The end state holds the value of every register (R284). -/
theorem mem_endState_registers {t : State} {r : Reg} {v : Word} :
    (r, v) ∈ (endState t).registers ↔ v = regRead r t := by
  simp only [endState, List.mem_map, Prod.mk.injEq]
  exact ⟨fun ⟨_, _, e, h⟩ => by subst e; exact h.symm, fun h => ⟨r, mem_allRegs r, rfl, h.symm⟩⟩

/-- Reads are found line by line: those of the first accesses, then those of the rest. -/
theorem seenOf_append : ∀ (es es' : List Event) (rs : List Reply) (seen : List Seen),
    seenOf (es ++ es') rs seen = (seenOf es rs seen).bind fun p => seenOf es' p.2 p.1
  | [], _, _, _ => rfl
  | .read _ _ :: es, es', [], _ => rfl
  | .read _ _ :: es, es', _ :: rs, _ => seenOf_append es es' rs _
  | .write _ _ :: es, es', [], _ => rfl
  | .write _ _ :: es, es', _ :: rs, _ => seenOf_append es es' rs _
  | .wait :: es, es', rs, seen => by
    simp only [List.cons_append, seenOf]
    cases waitAnswer rs with
    | none => rfl
    | some p => exact seenOf_append es es' p.2 _
  | .turn :: _, _, _, _ => rfl
  | .response _ :: _, _, _, _ => rfl
  | .attach _ :: _, _, _, _ => rfl
  | .hardReset :: _, _, _, _ => rfl

/-- A script whose assertions hold has been executed to its last line (log 21). -/
theorem seenOf_of_scriptHolds : ∀ {ls : List Line} {rs : List Reply} {seen : List Seen},
    scriptHolds ls rs seen = true → (seenOf (scriptEvents ls) rs seen).isSome = true
  | [], _, _, _ => rfl
  | l :: ls, rs, seen, h => by
    simp only [scriptHolds, Bool.and_eq_true] at h
    obtain ⟨-, h⟩ := h
    simp only [scriptEvents, List.flatMap_cons, seenOf_append]
    cases hs : seenOf (lineEvents l) rs seen with
    | none => simp [hs] at h
    | some p =>
      simp only [hs] at h
      simpa [scriptEvents] using seenOf_of_scriptHolds h

/-- A script whose assertions hold has been executed (log 21); it has ended where the engine is idle (R284). -/
theorem scriptExecuted_of_scriptAsserts {ls : List Line} {s t : State} (h : scriptAsserts ls s t = true) :
    scriptExecuted ls s t = true := by
  simp only [scriptExecuted, Bool.and_eq_true, List.all_eq_true]
  exact ⟨wellFormed_of_scriptHolds h, seenOf_of_scriptHolds h⟩

end Sys2Proof.Machine
end

