-- ==== Sys2Proof/Laws/Turn.lean ====
section
/-! SUPPORT. What one step of the machine can do, whoever takes it: the one inversion of `step`. -/

namespace Sys2Proof.Machine

/-- What a step does that answers a next state. `s` is the state with the event taken off the list. -/
inductive Moves (s : State) : State → Prop where
  /-- nobody moves -/
  | stays : Moves s s
  /-- a step of the command in progress -/
  | runs (i : Instr) (t : State) : s.phase ≠ .idle → decode (s.latch.op.setWidth 32) = .ok i →
      exec i s = .next t → Moves s t
  /-- a host read -/
  | reads (addr : BitVec 14) (size : Size) : Moves s (hostRead addr size s)
  /-- the pseudo-instruction `wait` -/
  | waits : Moves s (waitStep s)
  /-- a host write that is no command -/
  | writes (t : State) : WriteDoes s (t, none) → Moves s t
  /-- the acceptance of a command -/
  | accepts (i : Instr) (t : State) : s.phase = .idle → exec i (reply .ok s) = .next t → Moves s t
  /-- an illegal command word -/
  | illegal (w : Word) : s.phase = .idle →
      Moves s (raise .illegalCommand w (acceptClear (reply .ok s)))
  /-- another mixing-function unit -/
  | attaches (u : MixUnit) : s.phase = .idle → Moves s { s with mix := u }
  /-- a hard reset -/
  | resets : Moves s (hardReset s)

theorem runLatched_next {s t : State} (hp : s.phase ≠ .idle) (h : runLatched s = .next t) :
    Moves s t := by
  unfold runLatched at h
  split at h
  · exact .runs _ _ hp ‹_› h
  · cases h

theorem turn_next {s t : State} (h : turn s = .next t) : Moves s t := by
  unfold turn at h
  split at h
  · cases h; exact .stays
  · split at h
    · exact runLatched_next (by simp_all) h
    · cases h; exact .stays
  all_goals exact runLatched_next (by simp_all) h

theorem takeEvent_next {e : Event} {s t : State} (h : takeEvent e s = .next t) : Moves s t := by
  cases e with
  | read addr size => cases h; exact .reads _ _
  | wait => cases h; exact .waits
  | turn => exact turn_next h
  | hardReset => cases h; exact .resets
  | attach u =>
    simp only [takeEvent, attachUnit] at h
    split at h
    · cases h
    · cases h; exact .attaches _ (busy_eq_false.mp (by simpa using ‹¬ busy s = true›))
  | response m =>
    simp only [takeEvent, takeResponse] at h
    split at h
    · split at h
      · exact runLatched_next (by simp_all) h
      · cases h
    all_goals cases h; exact .stays
  | write addr data =>
    simp only [takeEvent] at h
    have hw := hostWrite_does addr data s
    split at h
    · rename_i s' he; cases h; rw [he] at hw; exact .writes _ hw
    · rename_i s' w he
      rw [he] at hw
      cases hw with
      | command w hb =>
        have hp := busy_eq_false.mp hb
        unfold startCommand at h
        split at h
        · exact .accepts _ _ hp h
        · cases h; exact .illegal _ hp

/-- The inversion of `step`: with the event taken off the list, one of the moves. -/
theorem step_next {s t : State} (h : step s = .next t) : Moves { s with events := s.events.tail } t := by
  unfold step nextStep at h
  split at h
  · rename_i he
    have hs : { s with events := s.events.tail } = s := by cases s; simp_all
    rw [hs]; exact turn_next h
  · rename_i e rest he
    have hs : { s with events := s.events.tail } = { s with events := rest } := by simp [he]
    rw [hs]; exact takeEvent_next h

/-- The write of a word to `CMD` while idle is an acceptance (R30, R176). -/
theorem step_commandWrite {s : State} {w : Word} {rest : List Event} (hp : s.phase = .idle)
    (he : s.events = commandWrite w :: rest) :
    step s = startCommand w (reply .ok { s with events := rest }) := by
  have hb : busy { s with events := rest } = false := busy_eq_false.mpr hp
  simp only [step, nextStep, he, commandWrite, takeEvent]
  have : hostWrite 0x8 (.word w) { s with events := rest } =
      (reply .ok { s with events := rest }, some w) := by
    show (if busy _ then _ else _) = _
    rw [hb]; rfl
  rw [this]

/-- A turn of the engine with nothing else to happen: one step of the latched command (R177, R186). -/
theorem turn_runs {s : State} {i : Instr} (hp : s.phase ≠ .idle)
    (hw : s.phase = .fwait → s.mix.answering = true)
    (hd : decode (s.latch.op.setWidth 32) = .ok i) : turn s = exec i s := by
  have hr : runLatched s = exec i s := by simp only [runLatched, hd]
  unfold turn
  split <;> simp_all

/-- While the environment does nothing, a step is a turn of the engine (R186). -/
theorem step_turn {s : State} (he : s.events = []) : step s = turn s := by
  simp only [step, nextStep, he]

end Sys2Proof.Machine
end

