-- ==== Sys2Proof/Tests/Slice0.lean ====
section
/-! SUPPORT. Tests of the model: words written out from R92, the vectors of 95_test_vectors.md one step at a
time, and, for every statement with hypotheses, a state and operands that meet them. -/

namespace Sys2Proof.Tests

open Sys2Proof.Machine

/-! ### Decoding: each word bit by bit, from the format of R90 and the opcode map of R92 -/

theorem test_word_xor : decode 0b00000000000000000000000000000001 = .ok .xor := by decide
theorem test_word_round : decode 0b00000000000000000000000000000010 = .ok .round := by decide
theorem test_word_flip : decode 0b00000000000000000000000000000011 = .ok .flip := by decide
theorem test_word_pad : decode 0b00000000000000000000000000000100 = .ok .pad := by decide
theorem test_word_unpad : decode 0b00000000000000000000000000000101 = .ok .unpad := by decide
theorem test_word_enc : decode 0b00000000000000000000000000000110 = .ok .enc := by decide
theorem test_word_dec : decode 0b00000000000000000000000000010110 = .ok .dec := by decide
theorem test_word_rst : decode 0b00000000000000000000000000000111 = .ok .rst := by decide

/-- 95_test_vectors.md 3.8: illegal words. -/
theorem test_words_illegal :
    ([0x0, 0x8, 0xF, 0x11, 0x17, 0x20, 0x26, 0x36, 0x106, 0x80000006] : List Word).all
      (fun w => match decode w with | .ok _ => false | .error _ => true) = true := by decide

/-! ### Ill-formed terms, one for each check -/

theorem test_illformed_zero_field : CommandFields.wellFormed ⟨6, 0, 1⟩ = false := by decide
theorem test_illformed_direction : CommandFields.wellFormed ⟨1, 1, 0⟩ = false := by decide
theorem test_illformed_opcode_low : CommandFields.wellFormed ⟨0, 0, 0⟩ = false := by decide
theorem test_illformed_opcode_high : CommandFields.wellFormed ⟨8, 0, 0⟩ = false := by decide
theorem test_illformed_memory_order : Memory.wf [(2, 0), (1, 0)] = false := by decide
theorem test_illformed_memory_range : Memory.wf [(4096, 0)] = false := by decide

/-! ### States -/

/-- Reset, but in a phase with given latches and `IBUF`; the registers agree with the latches. -/
def inPhase (ph : Phase) (l : Latches) (ibuf : List Byte) : State :=
  { State.reset with
    phase := ph, latch := l, srcLen := l.n, src2Len := l.n2, ibuf := memPutSeq [] 0 ibuf }

/-- Latches of a command on an operand of `n` bytes. -/
def latched (i : Instr) (n : Word) : Latches := ⟨(encode i).extractLsb' 0 5, n, 0, 0, 0, 0⟩

/-- Latches of a command on one block, with `r` rounds. -/
def latchedBlocks (i : Instr) (n r : Word) (m : Byte) : Latches :=
  ⟨(encode i).extractLsb' 0 5, n, 0, r, m, 1⟩

/-- The state of an outcome that is a next state. -/
def after : Res → State
  | .next s => s
  | .fault _ => State.reset
  | .refused _ => State.reset

/-- A half of sixteen equal bytes. -/
def rep16 (b : Byte) : Half := halfOf fun _ => b

/-- A unit that is known to answer one half with another. -/
def knownUnit (x : Half) (a : MixAnswer) : MixUnit := ⟨0, [(x, a)], true⟩

/-! ### One step of each command, from 95_test_vectors.md -/

/-- V-XOR-2. -/
def xorState : State :=
  { inPhase .exec { latched .xor 4 with n2 := 4 } [0x01, 0x02, 0x03, 0xFF] with
    xbuf := memPutSeq [] 0 [0x10, 0x20, 0x30, 0x0F] }

theorem test_xor_exec : hostResult (after (exec .xor xorState)) = [0x11, 0x22, 0x33, 0xF0] := by decide

/-- V-XOR-E3: `LengthMismatch` wins over capacity. -/
theorem test_xor_lengths :
    regRead .status (after (exec .xor { State.reset with srcLen := 4097, src2Len := 4096 })) =
      0x010E := by decide

/-- V-FLP-8. -/
theorem test_flip_exec :
    hostResult (after (exec .flip (inPhase .exec (latched .flip 8) [1, 2, 3, 4, 5, 6, 7, 8]))) =
      [5, 6, 7, 8, 1, 2, 3, 4] := by decide

/-- V-FLP-E4: odd and too long, `InvalidBlockLength` first. -/
theorem test_flip_odd :
    regRead .status (after (exec .flip { State.reset with srcLen := 4097 })) = 0x020E := by decide

/-- V-PAD-31: one byte 0x01. -/
theorem test_pad_31 : pad (List.replicate 31 0x41) = List.replicate 31 0x41 ++ [0x01] := by decide

/-- V-PAD-E2: no overflow. -/
theorem test_pad_capacity :
    (after (exec .pad { State.reset with srcLen := 0xFFFFFFFF })).errinfo = 0xFFFFFFFF := by decide

/-- V-UNP-3. -/
theorem test_unpad_exec :
    hostResult (after (exec .unpad
      (inPhase .exec (latched .unpad 5) [0xAA, 0xBB, 0xCC, 0x02, 0x02]))) = [0xAA, 0xBB, 0xCC] := by
  decide

/-- V-UNP-E2: `m = 0` is malformed, `ERRINFO = 0` but `ERRCODE = 4`. -/
theorem test_unpad_zero :
    regRead .status (after (exec .unpad
      (inPhase .exec (latched .unpad 3) [0xAA, 0xBB, 0x00]))) = 0x040E := by decide

/-- V-RND-ID, the response step: `0j XOR 1j = 10`. -/
theorem test_round_response :
    (responseStep (.ok (halfOf fun j => BitVec.ofNat 8 (0x10 + j)))
      { inPhase .fwait (latchedBlocks .round 32 1 0) [] with
        left := halfOf fun j => BitVec.ofNat 8 j }).right = rep16 0x10 := by decide

/-- V-RND-FAIL. -/
def roundFails : State :=
  after (exec .round { inPhase .fwait (latchedBlocks .round 32 1 0) [] with
    mix := knownUnit Half.zero (.fail 0x33) })

theorem test_round_fails : regRead .status roundFails = 0x050E ∧ roundFails.fcode = 0x33 := by decide

/-- 95_test_vectors.md 3.10, step 10: `OBUF[0:32] <- R || L`, so the first byte stored is that of `R`. -/
theorem test_enc_store :
    (after (exec .enc { inPhase .store (latchedBlocks .enc 17 4 15) [] with
      left := rep16 1, right := rep16 2 })).obuf.head? = some (0, 2) := by decide

/-- V-ENC-E3: capacity is checked before the round count. -/
theorem test_enc_capacity :
    regRead .status (after (exec .enc { State.reset with srcLen := 4096, rounds := 0 })) = 0x070E := by
  decide

/-- V-DEC-E7: the length error is checked before the round count. -/
theorem test_dec_length :
    regRead .status (after (exec .dec { State.reset with srcLen := 33, rounds := 0 })) = 0x030E := by
  decide

/-- V-DEC-P3, the finish step: a last byte 0 is `PaddingError(0)`. -/
theorem test_dec_padding :
    regRead .status (after (exec .dec { inPhase .finish (latchedBlocks .dec 1 4 0) [] with
      obuf := [(0, 0)] })) = 0x040E := by decide

/-- R210's example: `RST` after a `PaddingError`. -/
theorem test_rst :
    regRead .status (after (exec .rst { State.reset with
      done := true, err := true, estk := true, errcode := 4 })) = 0 := by decide

/-- 95_test_vectors.md 3.9: little-endian, `0x1122_3344` at index 4. -/
theorem test_buffer_word :
    (after (step { State.reset with events := [.write 0x1004 (.word 0x11223344)] })).ibuf =
      [(4, 0x44), (5, 0x33), (6, 0x22), (7, 0x11)] := by decide

/-- 95_test_vectors.md P7: a dropped write sets `WRBUSY`. -/
theorem test_busy_write :
    regRead .status (after (step { inPhase .load (latchedBlocks .round 32 1 0) [] with
      events := [.write 0x10 (.word 64)] })) = 0x11 := by decide

/-- Where the fetched instruction is placed, the first step after reset runs it: an accepted `ENC` is in `LOAD`. -/
theorem test_fetch : (after (step (State.reset.withFetchWord 32 0x06))).phase = .load := by decide

/-! ### The host script -/

/-- `rd STATUS; ack` on a machine that has completed a command. -/
def acknowledged : State :=
  { State.reset with done := true, events := scriptEvents [.rd .status, .ack] }

/-- R97: the assertion is about the value the read returned, 2, although `STATUS` is 0 after the `ack`. -/
theorem test_expect_read_value :
    scriptAsserts [.rd .status, .ack, .expectReg .status 2] acknowledged
      (after (stepMany 2 acknowledged)) = true := by decide

/-- A `wait` is reads of `STATUS`, the last of which counts; R96 and P1: the lanes of `rdw OBUF+0`. -/
theorem test_expect_wait_and_lanes :
    scriptHolds [.wait, .expectReg .status 2, .rdw .obuf 0, .expectBuf .obuf 0 [0x10, 0x4D, 0x4C, 0x4B]]
      [.word 1, .word 1, .word 2, .word 0x4B4C4D10] [] = true := by decide

/-- A line that asserts of a place no read has reached does not hold (log 19). -/
theorem test_expect_unread :
    scriptHolds [.wr .rounds 4, .expectReg .rounds 4] [.ok] [] = false := by decide

/-- Where a `wait` still reads `BUSY`, an assertion after it does not hold on the value of an older read (log 21). -/
theorem test_expect_unreached :
    scriptHolds [.rd .status, .wait, .expectReg .status 1] [.word 1, .word 1] [] = false := by decide

/-- `OBUF+4096` and a word at 2 are no lines: they make no access, not one to `CTRL` (log 22). -/
theorem test_line_outside_domain :
    scriptEvents [.wrw .obuf 4096 1, .wrw .ibuf 2 1] = [] ∧
      scriptEvents [.wrw .xbuf 4092 1] = [.write 0x2FFC (.word 1)] := by decide

/-- `cmd XOR` and `cmd XOR; wait`, of the empty operands that reset leaves. -/
def xorScript (ls : List Line) : State := { State.reset with events := scriptEvents ls }

/-- R284: the last line is executed, but `BUSY = 1`: not ended, no end state. -/
theorem test_script_not_ended :
    scriptExecuted [.cmd .xor] (xorScript [.cmd .xor])
        (after (stepMany 1 (xorScript [.cmd .xor]))) = true ∧
      scriptEnded [.cmd .xor] (xorScript [.cmd .xor])
        (after (stepMany 1 (xorScript [.cmd .xor]))) = false := by decide

/-- R284: accepted, read as busy, the `EXEC` step, read as idle: ended, with no byte of result. -/
theorem test_script_ended :
    scriptEnded [.cmd .xor, .wait] (xorScript [.cmd .xor, .wait])
        (after (stepMany 4 (xorScript [.cmd .xor, .wait]))) = true ∧
      hostResult (after (stepMany 4 (xorScript [.cmd .xor, .wait]))) = [] := by decide

/-- R142: no value of `flip` at an odd length (log 20). -/
theorem test_flip_odd_sequence : flipSeq [1, 2, 3] = none := by decide

/-! ### Witnesses: for every statement with hypotheses, a state and operands that meet them all -/

/-- A `ROUND` of one block whose half is zero, answered with zero, idle before it. -/
def roundState : State :=
  { State.reset with
    srcLen := 32, ibuf := memPutSeq [] 0 (List.replicate 32 0), mix := knownUnit (rep16 0) (.ok (rep16 0)) }

/-- The empty message to be enciphered in one round: its only block is the padding, 32 bytes 0x20. -/
def encState (a : MixAnswer) : State :=
  { State.reset with rounds := 1, mix := knownUnit (rep16 0x20) a }

/-- One block of equal bytes to be deciphered in one round. -/
def decState (b : Byte) (a : MixAnswer) : State :=
  { State.reset with
    rounds := 1, srcLen := 32, ibuf := memPutSeq [] 0 (List.replicate 32 b), mix := knownUnit (rep16 b) a }

/-- A busy state: a `ROUND` of one block, accepted, about to load; it meets the invariant. -/
def busyState (es : List Event) : State :=
  { inPhase .load (latchedBlocks .round 32 1 0) [] with events := es }

/-- A request outstanding. -/
def waiting (es : List Event) (a : MixAnswer) (answering : Bool) : State :=
  { inPhase .fwait (latchedBlocks .round 32 1 0) [] with
    events := es, mix := ⟨0, [(Half.zero, a)], answering⟩ }

/-- An idle state with given events. -/
def idleState (es : List Event) : State := { State.reset with events := es }

theorem busyState_latches (es : List Event) : BlockLatchesOk (busyState es) := by
  have h : latchedCommand (busyState es) = some .round := by
    simp only [latchedCommand, busyState, inPhase]
    decide
  unfold BlockLatchesOk
  rw [h]
  exact ⟨rfl, rfl, rfl, rfl⟩

theorem busyState_inv (es : List Event) : Inv (busyState es) where
  buffers := And.intro rfl (And.intro rfl rfl)
  report := ⟨(by decide : (0 : Nat) ≤ 8), fun _ => ⟨rfl, rfl, rfl⟩, nofun, fun h => (h rfl).elim,
    fun _ => ⟨rfl, rfl, rfl⟩, (by decide : (0 : Nat) ≤ 4096)⟩
  position := And.intro ⟨rfl, rfl⟩ (And.intro (busyState_latches es) ⟨(by decide : (0 : Nat) < 1), rfl⟩)

theorem witness_WrittenCommandRuns :
    (State.reset.withFetchWord 32 6).phase = .idle ∧
    (State.reset.withFetchWord 32 6).events = .write 0x8 (.word 0x06) :: [] ∧
    decode 0x06 = .ok .enc := by decide

theorem witness_LatchedCommandRuns_turn :
    (busyState [.turn]).phase ≠ .idle ∧
    ((busyState [.turn]).phase = .fwait → (busyState [.turn]).mix.answering = true) ∧
    latchedCommand (busyState [.turn]) = some .round ∧
    ((busyState [.turn]).events = [] ∨ ∃ rest, (busyState [.turn]).events = .turn :: rest) :=
  ⟨by decide, nofun, by decide, .inr ⟨[], rfl⟩⟩

theorem witness_LatchedCommandRuns_fwait :
    (waiting [] (.fail 1) true).phase ≠ .idle ∧
    ((waiting [] (.fail 1) true).phase = .fwait → (waiting [] (.fail 1) true).mix.answering = true) ∧
    latchedCommand (waiting [] (.fail 1) true) = some .round ∧
    ((waiting [] (.fail 1) true).events = [] ∨
      ∃ rest, (waiting [] (.fail 1) true).events = .turn :: rest) :=
  ⟨by decide, fun _ => rfl, by decide, .inl rfl⟩

theorem witness_IllegalWordEndsInIllegalCommand :
    (idleState [.write 0x8 (.word 0x17)]).phase = .idle ∧
    (idleState [.write 0x8 (.word 0x17)]).events = .write 0x8 (.word 0x17) :: [] ∧
    ∀ i, (0x17 : Word) ≠ encode i :=
  ⟨rfl, rfl, fun i => by cases i <;> decide⟩

/-- Both ends of the range of `N`; the idle clause of every command is met by `State.reset`. -/
theorem witness_XorCommand :
    State.reset.phase = .idle ∧
    (inPhase .exec (latched .xor 0) []).phase = .exec ∧
    (inPhase .exec (latched .xor 0) []).latch.n = (inPhase .exec (latched .xor 0) []).latch.n2 ∧
    (inPhase .exec (latched .xor 0) []).latch.n.toNat ≤ 4096 ∧
    (inPhase .exec { latched .xor 4096 with n2 := 4096 } []).phase = .exec ∧
    (inPhase .exec { latched .xor 4096 with n2 := 4096 } []).latch.n =
      (inPhase .exec { latched .xor 4096 with n2 := 4096 } []).latch.n2 ∧
    (inPhase .exec { latched .xor 4096 with n2 := 4096 } []).latch.n.toNat ≤ 4096 :=
  ⟨rfl, rfl, rfl, Nat.zero_le _, rfl, rfl, Nat.le_refl 4096⟩

theorem witness_FlipCommand :
    State.reset.phase = .idle ∧
    (inPhase .exec (latched .flip 0) []).phase = .exec ∧
    (inPhase .exec (latched .flip 0) []).latch.n.toNat % 2 = 0 ∧
    (inPhase .exec (latched .flip 0) []).latch.n.toNat ≤ 4096 ∧
    (inPhase .exec (latched .flip 4096) []).phase = .exec ∧
    (inPhase .exec (latched .flip 4096) []).latch.n.toNat % 2 = 0 ∧
    (inPhase .exec (latched .flip 4096) []).latch.n.toNat ≤ 4096 :=
  ⟨rfl, rfl, rfl, Nat.zero_le _, rfl, rfl, Nat.le_refl 4096⟩

theorem witness_PadCommand :
    State.reset.phase = .idle ∧
    (∀ p ∈ [(0, 32), (31, 1), (4095, 1)], (inPhase .exec (latched .pad p.1) []).phase = .exec ∧
      (inPhase .exec (latched .pad p.1) []).latch.n.toNat < 4096 ∧
      p.2 = 32 - (inPhase .exec (latched .pad p.1) []).latch.n.toNat % 32) := by decide

theorem witness_UnpadCommand_empty :
    (inPhase .exec (latched .unpad 0) []).phase = .exec ∧
    (inPhase .exec (latched .unpad 0) []).latch.n.toNat = 0 := by decide

/-- `[0x21]` is malformed. -/
theorem witness_UnpadCommand_malformed :
    (inPhase .exec (latched .unpad 1) [0x21]).phase = .exec ∧
    0 < (inPhase .exec (latched .unpad 1) [0x21]).latch.n.toNat ∧
    (inPhase .exec (latched .unpad 1) [0x21]).latch.n.toNat ≤ 4096 ∧
    33 = (bufByte .ibuf (inPhase .exec (latched .unpad 1) [0x21]) 0).toNat ∧
    MalformedPadding (inPhase .exec (latched .unpad 1) [0x21]) 1 33 :=
  ⟨by decide, by decide, by decide, by decide, .inr (.inl (by decide))⟩

/-- `[0x01]` is well-formed. -/
theorem witness_UnpadCommand_good :
    (inPhase .exec (latched .unpad 1) [0x01]).phase = .exec ∧
    0 < (inPhase .exec (latched .unpad 1) [0x01]).latch.n.toNat ∧
    (inPhase .exec (latched .unpad 1) [0x01]).latch.n.toNat ≤ 4096 ∧
    1 = (bufByte .ibuf (inPhase .exec (latched .unpad 1) [0x01]) 0).toNat ∧
    ¬ MalformedPadding (inPhase .exec (latched .unpad 1) [0x01]) 1 1 := by
  refine ⟨by decide, by decide, by decide, by decide, ?_⟩
  rintro (h | h | h | ⟨j, _, h, hne⟩)
  · omega
  · omega
  · omega
  · obtain rfl : j = 0 := by omega
    exact hne (by decide)

/-- The end of the range of `N` that a command can be in `EXEC` with, the last byte written. -/
theorem witness_UnpadCommand_full :
    (inPhase .exec (latched .unpad 4096) []).latch.n.toNat ≤ 4096 ∧
    32 = (bufByte .ibuf { inPhase .exec (latched .unpad 4096) [] with ibuf := [(4095, 32)] }
      4095).toNat := ⟨Nat.le_refl 4096, rfl⟩

/-- Also the idle hypothesis of `RoundAcceptance` and `CryptAcceptance`. -/
theorem witness_RstCommand : State.reset.phase = .idle := rfl

theorem witness_RoundAcceptance : roundState.phase = .idle := by decide

theorem witness_CryptAcceptance : (encState (.fail 0)).phase = .idle ∧ (decState 0 (.fail 0)).phase = .idle := by
  decide

/-- V-ENC-E3, with the next state named. -/
theorem witness_AcceptanceErrorCodes :
    State.reset.phase = .idle ∧ 0 = State.reset.srcLen.toNat ∧
    exec .enc State.reset = .next (after (exec .enc State.reset)) := ⟨rfl, rfl, rfl⟩

/-- The first and the last block; the input of `ENC` and the input of `DEC`. -/
theorem witness_LoadStepTakesTheBlock :
    (busyState []).phase = .load ∧ 0 = (busyState []).bcnt.toNat ∧ (0 + 1) * 32 ≤ 4096 ∧
    (Instr.enc = .round ∧ (∀ j, encInput (busyState []) j = bufByte .ibuf (busyState []) j) ∨
      Instr.enc = .dec ∧ (∀ j, encInput (busyState []) j = bufByte .ibuf (busyState []) j) ∨
      Instr.enc = .enc ∧ (∀ j, encInput (busyState []) j =
        if j < (busyState []).latch.n.toNat then bufByte .ibuf (busyState []) j
        else (busyState []).latch.m)) :=
  ⟨by decide, by decide, by decide, .inr (.inr ⟨rfl, fun _ => rfl⟩)⟩

theorem witness_LoadStepTakesTheBlock_last :
    ({ busyState [] with bcnt := 127 } : State).phase = .load ∧
    127 = ({ busyState [] with bcnt := 127 } : State).bcnt.toNat ∧ (127 + 1) * 32 ≤ 4096 ∧
    (Instr.dec = .round ∧ (∀ j, bufByte .ibuf { busyState [] with bcnt := 127 } j =
        bufByte .ibuf { busyState [] with bcnt := 127 } j) ∨
      Instr.dec = .dec ∧ (∀ j, bufByte .ibuf { busyState [] with bcnt := 127 } j =
        bufByte .ibuf { busyState [] with bcnt := 127 } j)) :=
  ⟨by decide, by decide, by decide, .inr ⟨rfl, fun _ => rfl⟩⟩

theorem witness_RequestStepSendsTheRightHalf :
    (Instr.round = .round ∨ Instr.round = .enc ∨ Instr.round = .dec) ∧
    (inPhase .freq (latchedBlocks .round 32 1 0) []).phase = .freq := by decide

theorem witness_ResponseStepAppliesTheRound :
    (waiting [] (.ok (rep16 7)) true).phase = .fwait ∧
    mixFn (waiting [] (.ok (rep16 7)) true).mix (waiting [] (.ok (rep16 7)) true).right = .ok (rep16 7) ∧
    (waiting [] (.fail 0xFF) true).phase = .fwait ∧
    mixFn (waiting [] (.fail 0xFF) true).mix (waiting [] (.fail 0xFF) true).right = .fail 0xFF :=
  ⟨rfl, rfl, rfl, rfl⟩

/-- A `STORE` step of a given block. -/
def storing (i : Instr) (k : Word) : State :=
  { inPhase .store (latchedBlocks i 32 1 0) [] with left := rep16 1, right := rep16 2, bcnt := k }

theorem witness_StoreStepWritesTheBlock_round :
    (storing .round 0).phase = .store ∧ 0 = (storing .round 0).bcnt.toNat ∧ (0 + 1) * 32 ≤ 4096 ∧
    (Instr.round = .round ∧
      (rep16 1).bytes ++ (rep16 2).bytes = (storing .round 0).left.bytes ++ (storing .round 0).right.bytes) := by
  decide

/-- The last block. -/
theorem witness_StoreStepWritesTheBlock_dec :
    (storing .dec 127).phase = .store ∧ 127 = (storing .dec 127).bcnt.toNat ∧ (127 + 1) * 32 ≤ 4096 ∧
    ((Instr.dec = .enc ∨ Instr.dec = .dec) ∧
      (rep16 2).bytes ++ (rep16 1).bytes = (storing .dec 127).right.bytes ++ (storing .dec 127).left.bytes) := by
  decide

theorem witness_FinishStepSettlesTheLength :
    (inPhase .finish (latchedBlocks .dec 0 4 0) []).phase = .finish ∧
    (inPhase .finish (latchedBlocks .dec 0 4 0) []).latch.n.toNat ≤ 4096 ∧
    (inPhase .finish (latchedBlocks .dec 4096 4 0) []).phase = .finish ∧
    (inPhase .finish (latchedBlocks .dec 4096 4 0) []).latch.n.toNat ≤ 4096 :=
  ⟨rfl, Nat.zero_le _, rfl, Nat.le_refl 4096⟩

theorem witness_RoundCommandComputesPsi :
    roundState.phase = .idle ∧ roundState.mix.answering = true ∧ roundState.srcLen = 32 ∧
    psi (mixFn roundState.mix) (blockAt (bufByte .ibuf roundState) 0) = .ok (rep16 0, rep16 0) :=
  ⟨by decide, by decide, by decide, rfl⟩

/-- The empty message in one round: both at the low end of their ranges. -/
theorem witness_EncCommandComputesCrypt :
    (encState (.ok (rep16 0))).phase = .idle ∧ (encState (.ok (rep16 0))).mix.answering = true ∧
    (encState (.ok (rep16 0))).srcLen.toNat < 4096 ∧ 1 = (encState (.ok (rep16 0))).rounds.toNat ∧
    1 ≠ 0 ∧ 1 = (encState (.ok (rep16 0))).srcLen.toNat / 32 + 1 ∧
    crypt (hostOperand (encState (.ok (rep16 0)))) (mixFn (encState (.ok (rep16 0))).mix) false 1 =
      .ok (List.replicate 32 0x20) :=
  ⟨by decide, by decide, by decide, by decide, by decide, by decide, rfl⟩

/-- The clause with a result. -/
theorem witness_DecCommandComputesCrypt_result :
    (decState 0x20 (.ok (rep16 0))).phase = .idle ∧ (decState 0x20 (.ok (rep16 0))).mix.answering = true ∧
    (decState 0x20 (.ok (rep16 0))).srcLen.toNat ≠ 0 ∧ (decState 0x20 (.ok (rep16 0))).srcLen.toNat % 32 = 0 ∧
    (decState 0x20 (.ok (rep16 0))).srcLen.toNat ≤ 4096 ∧ 1 = (decState 0x20 (.ok (rep16 0))).rounds.toNat ∧
    1 ≠ 0 ∧ 1 = (decState 0x20 (.ok (rep16 0))).srcLen.toNat / 32 ∧
    crypt (hostOperand (decState 0x20 (.ok (rep16 0)))) (mixFn (decState 0x20 (.ok (rep16 0))).mix) true 1 =
      .ok [] ∧
    ∀ code, (.ok [] : Except CryptError (List Byte)) ≠ .error (.mix code) :=
  ⟨by decide, by decide, by decide, by decide, by decide, by decide, by decide, by decide, rfl, nofun⟩

/-- The clause that ends in `PaddingError`: the last byte is 0 (V-DEC-P3). -/
theorem witness_DecCommandComputesCrypt_padding :
    (decState 0 (.ok (rep16 0))).phase = .idle ∧ (decState 0 (.ok (rep16 0))).mix.answering = true ∧
    (decState 0 (.ok (rep16 0))).srcLen.toNat ≠ 0 ∧ (decState 0 (.ok (rep16 0))).srcLen.toNat % 32 = 0 ∧
    (decState 0 (.ok (rep16 0))).srcLen.toNat ≤ 4096 ∧ 1 = (decState 0 (.ok (rep16 0))).rounds.toNat ∧
    1 ≠ 0 ∧ 1 = (decState 0 (.ok (rep16 0))).srcLen.toNat / 32 ∧
    crypt (hostOperand (decState 0 (.ok (rep16 0)))) (mixFn (decState 0 (.ok (rep16 0))).mix) true 1 =
      .error (.padding 0) ∧
    ∀ code, (.error (.padding 0) : Except CryptError (List Byte)) ≠ .error (.mix code) :=
  ⟨by decide, by decide, by decide, by decide, by decide, by decide, by decide, by decide, rfl, nofun⟩

theorem witness_FailingMixEndsInMixFault_enc :
    (encState (.fail 0x33)).phase = .idle ∧ (encState (.fail 0x33)).mix.answering = true ∧
    1 = (encState (.fail 0x33)).rounds.toNat ∧ 1 ≠ 0 ∧
    (Instr.enc = .enc ∧ (encState (.fail 0x33)).srcLen.toNat < 4096 ∧
      crypt (hostOperand (encState (.fail 0x33))) (mixFn (encState (.fail 0x33)).mix) false 1 =
        .error (.mix 0x33)) :=
  ⟨by decide, by decide, by decide, by decide, rfl, by decide, rfl⟩

theorem witness_FailingMixEndsInMixFault_dec :
    (decState 0 (.fail 0x33)).phase = .idle ∧ (decState 0 (.fail 0x33)).mix.answering = true ∧
    1 = (decState 0 (.fail 0x33)).rounds.toNat ∧ 1 ≠ 0 ∧
    (Instr.dec = .dec ∧ (decState 0 (.fail 0x33)).srcLen.toNat ≤ 4096 ∧
      crypt (hostOperand (decState 0 (.fail 0x33))) (mixFn (decState 0 (.fail 0x33)).mix) true 1 =
        .error (.mix 0x33)) :=
  ⟨by decide, by decide, by decide, by decide, rfl, by decide, rfl⟩

/-- The outer hypotheses are those of `witness_EncCommandComputesCrypt`; these are the inner ones, met by the state
in which the host has moved the result of that `ENC` into `IBUF`. -/
theorem witness_EncryptThenDecryptRestores :
    ∃ t, stepMany (2 + 1 * (2 + 2 * 1)) (submit (encode .enc) (encState (.ok (rep16 0)))) = .next t ∧
      ({ decState 0x20 (.ok (rep16 0)) with srcLen := t.dstLen } : State).phase = .idle ∧
      (decState 0x20 (.ok (rep16 0))).mix = (encState (.ok (rep16 0))).mix ∧
      (decState 0x20 (.ok (rep16 0))).rounds = (encState (.ok (rep16 0))).rounds ∧
      (decState 0x20 (.ok (rep16 0))).srcLen = t.dstLen ∧
      hostOperand (decState 0x20 (.ok (rep16 0))) = hostResult t :=
  ⟨_, rfl, rfl, rfl, rfl, rfl, rfl⟩

/-- Two states that differ in what no command reads, the number of hard resets and the contents of `XBUF` among it, an
`ENC` run to its end in the first. -/
theorem witness_OutcomeDependsOnOperandsOnly :
    (encState (.ok (rep16 0))).phase = .idle ∧
    ({ encState (.ok (rep16 0)) with
      ie := true, left := rep16 9, resets := 7, xbuf := [(0, 1)] } : State).phase = .idle ∧
    SameOperands (encState (.ok (rep16 0))) { encState (.ok (rep16 0)) with
      ie := true, left := rep16 9, resets := 7, xbuf := [(0, 1)] } ∧
    ∃ t, stepMany (5 + 1) (submit (encode .enc) (encState (.ok (rep16 0)))) = .next t ∧ t.phase = .idle :=
  ⟨rfl, rfl, ⟨rfl, rfl, rfl, rfl, fun _ _ h => absurd h (Nat.not_lt_zero _), fun _ _ h => absurd h (Nat.not_lt_zero _)⟩, _, rfl, rfl⟩

theorem witness_XorOfSequences : ([] : List Byte).length = ([] : List Byte).length ∧
    ([1] : List Byte).length ≠ ([] : List Byte).length ∧
    ([1] : List Byte).length = ([2] : List Byte).length ∧ ([1] : List Byte)[0]? = some 1 ∧
    xorSeq [3] [5] = some [6] := by decide

theorem witness_FlipOfSequences : ([1, 2] : List Byte).length % 2 = 0 ∧ 0 < ([1, 2] : List Byte).length / 2 ∧
    ([1, 2] : List Byte).length / 2 ≤ 1 ∧ 1 < ([1, 2] : List Byte).length ∧
    flipSeq ([] : List Byte) = flipSeq [] := by decide

theorem witness_PadOfSequences : (32 : Nat) = 32 - ([] : List Byte).length % 32 ∧
    (1 : Nat) = 32 - (List.replicate 31 (0 : Byte)).length % 32 := by decide

theorem witness_UnpadInvertsPad : (List.replicate 32 (0x20 : Byte)).length ≠ 0 ∧
    (List.replicate 32 (0x20 : Byte)).length % 32 = 0 ∧
    unpadV (List.replicate 32 0x20) = .ok [] := ⟨by decide, by decide, rfl⟩

/-- One witness for each way the padding can be malformed, and one where it is not. -/
theorem witness_UnpadValidates :
    ([0] : List Byte).getLast? = some 0 ∧
    ([33] : List Byte).getLast? = some 33 ∧ 32 < (33 : Byte).toNat ∧
    ([2] : List Byte).getLast? = some 2 ∧ ([2] : List Byte).length < (2 : Byte).toNat ∧
    ([1, 2] : List Byte).getLast? = some 2 ∧ ([1, 2] : List Byte)[0]? = some 1 ∧
    ([1] : List Byte).getLast? = some 1 ∧ (1 : Byte) ≠ 0 ∧ (1 : Byte).toNat ≤ ([1] : List Byte).length := by
  decide

theorem witness_UnpadValidates_good :
    ∀ (j : Nat) (x : Byte), ([1] : List Byte).length - (1 : Byte).toNat ≤ j → ([1] : List Byte)[j]? = some x →
      x = 1 := by
  intro j x _ h
  cases j with
  | zero => simpa using h.symm
  | succ j => simp at h

/-- Also for `BlockTransformIsAnInvolution` and `CryptRoundTrip`: a total mixing function, one round. -/
theorem witness_FlipPsiFlipInvertsPsi : Total (fun x => .ok x) ∧
    (fun x => .ok x : MixFn) (rep16 1) = .ok (rep16 1) := ⟨fun x => ⟨x, rfl⟩, rfl⟩

theorem witness_BlockTransformIsAnInvolution : Total (fun _ => .ok (rep16 0xA5)) := fun _ => ⟨_, rfl⟩

theorem witness_CryptRoundTrip : 1 ≤ 1 ∧ Total (fun x => .ok x) := ⟨by decide, fun x => ⟨x, rfl⟩⟩

theorem witness_BlocksAreIndependent :
    transformBlocks (fun _ => .ok (rep16 0)) 1 (fun _ => 0) 2 = .ok (List.replicate 64 0) ∧
    0 < 2 ∧ 1 < 2 ∧ blockAt (fun _ => 0) 0 = blockAt (fun _ => 0) 1 := ⟨rfl, by decide, by decide, rfl⟩

/-! The host port. -/

/-- Byte access to a register, an unaligned word, the hole; a write to `OBUF`. -/
theorem witness_IllegalAccessChangesNothing :
    ¬ LegalRead 0x0FFF .byte ∧ ¬ LegalRead 0x1001 .word ∧ ¬ LegalRead 0x34 .word ∧
    ¬ LegalWrite 0x3000 (.byte 0) ∧
    (idleState [.read 0x34 .word]).events = .read 0x34 .word :: [] ∧
    (idleState [.write 0x3000 (.byte 0)]).events = .write 0x3000 (.byte 0) :: [] :=
  ⟨by unfold LegalRead; decide, by unfold LegalRead; decide, by unfold LegalRead; decide,
    fun h => absurd h.2 (by decide), rfl, rfl⟩

theorem witness_BusyWriteIsDropped :
    (busyState [.write 0x30 (.word 0)]).events = .write 0x30 (.word 0) :: [] ∧
    LegalWrite 0x30 (.word 0) ∧ LegalWrite 0x2FFF (.byte 0) ∧
    (busyState [.write 0x30 (.word 0)]).phase ≠ .idle :=
  ⟨rfl, ⟨⟨by decide, .inl (by decide)⟩, by decide⟩, ⟨by unfold LegalRead writeSize; decide, by decide⟩, by decide⟩

theorem witness_HostReadChangesNothing :
    (idleState [.read 0x3FFC .word]).events = .read 0x3FFC .word :: [] := rfl

/-- The constants `ID` and `CAPR`, the last two registers. -/
theorem witness_RegisterReads (s : State) :
    ((0x2C, 0x00010120) : BitVec 14 × Word) ∈ [(0x00, (BitVec.ofBool s.ie).setWidth 32), (0x08, 0),
      (0x0C, s.rounds), (0x10, s.srcLen), (0x14, s.src2Len), (0x18, s.dstLen), (0x1C, s.rcnt),
      (0x20, s.bcnt), (0x24, s.errinfo), (0x28, s.fcode.setWidth 32), (0x2C, 0x00010120),
      (0x30, 0x00001000)] ∧
    (idleState [.read 0x2C .word]).events = .read 0x2C .word :: [] ∧
    (busyState [.read 0x30 .word]).events = .read 0x30 .word :: [] :=
  ⟨by simp, rfl, rfl⟩

theorem witness_StatusReadShowsTheFlags :
    (busyState [.read 0x04 .word]).events = .read 0x04 .word :: [] := rfl

/-- `ROUNDS`, and the last register, which is read-only. -/
theorem witness_RegisterWritesWhileIdle (s : State) (v : Word) :
    ((0x0C, { s with rounds := v }) : BitVec 14 × State) ∈ [(0x00, { s with ie := v.getLsbD 0 }),
      (0x0C, { s with rounds := v }), (0x10, { s with srcLen := v }), (0x14, { s with src2Len := v }),
      (0x18, s), (0x1C, s), (0x20, s), (0x24, s), (0x28, s), (0x2C, s), (0x30, s)] ∧
    ((0x30, s) : BitVec 14 × State) ∈ [(0x28, s), (0x2C, s), (0x30, s)] ∧
    (idleState [.write 0x0C (.word 16)]).phase = .idle ∧
    (idleState [.write 0x0C (.word 16)]).events = .write 0x0C (.word 16) :: [] ∧
    (idleState [.write 0x30 (.word 0)]).events = .write 0x30 (.word 0) :: [] :=
  ⟨.tail _ (.head _), .tail _ (.tail _ (.head _)), rfl, rfl, rfl⟩

/-- Both bits, the sticky flags set before. -/
theorem witness_AcknowledgeClears :
    ({ idleState [.write 0x04 (.word 0x12)] with done := true, wrbusy := true } : State).phase = .idle ∧
    ({ idleState [.write 0x04 (.word 0x12)] with done := true, wrbusy := true } : State).events =
      .write 0x04 (.word 0x12) :: [] ∧
    (0x12 : Word).getLsbD 1 = true ∧ (0x12 : Word).getLsbD 4 = true := by decide

/-- The first and the last byte of `IBUF`, the last aligned word of `XBUF`. -/
theorem witness_BufferWriteIsLittleEndian :
    (0x1000 : BitVec 14).toNat = 0x1000 + 0 ∧ (0x1FFF : BitVec 14).toNat = 0x1000 + 4095 ∧
    (0x2FFC : BitVec 14).toNat = 0x2000 + 4092 ∧ 4095 < 4096 ∧ 4092 % 4 = 0 ∧
    (idleState [.write 0x1FFF (.byte 1)]).phase = .idle ∧
    (idleState [.write 0x1FFF (.byte 1)]).events = .write 0x1FFF (.byte 1) :: [] ∧
    (idleState [.write 0x2FFC (.word 1)]).events = .write 0x2FFC (.word 1) :: [] := by decide

theorem witness_BufferReads :
    (0x1000 : BitVec 14).toNat = 0x1000 + 0 ∧ (0x2FFC : BitVec 14).toNat = 0x2000 + 4092 ∧
    4092 < 4096 ∧ 4092 % 4 = 0 ∧
    (idleState [.read 0x1000 .byte]).events = .read 0x1000 .byte :: [] ∧
    (busyState [.read 0x2FFC .word]).events = .read 0x2FFC .word :: [] := by decide

/-- The last defined byte, and the first undefined one. -/
theorem witness_ObufReadsShowTheResultOnly :
    (0x301F : BitVec 14).toNat = 0x3000 + 31 ∧ (0x3020 : BitVec 14).toNat = 0x3000 + 32 ∧
    ({ idleState [.read 0x301F .byte] with dstLen := 32 } : State).phase = .idle ∧
    ({ idleState [.read 0x301F .byte] with dstLen := 32 } : State).events = .read 0x301F .byte :: [] ∧
    31 < ({ idleState [.read 0x301F .byte] with dstLen := 32 } : State).dstLen.toNat ∧
    ({ idleState [.read 0x3020 .byte] with dstLen := 32 } : State).dstLen.toNat ≤ 32 ∧
    (busyState [.read 0x3FFF .byte]).phase ≠ .idle := by decide

theorem witness_HardResetFromAnyPhase :
    (busyState [.hardReset]).events = .hardReset :: [] ∧ (busyState [.hardReset]).phase = .load := by decide

theorem witness_ObufReadsShowTheResultOnly_byte_busy :
    (busyState [.read 0x3FFF .byte]).events = .read 0x3FFF .byte :: [] ∧
    (0x3FFF : BitVec 14).toNat = 0x3000 + 4095 ∧ 4095 < 4096 := by decide

/-- A word that straddles `DST_LEN`: two lanes of the result, two undefined. -/
theorem witness_ObufReadsShowTheResultOnly_word :
    (0x301C : BitVec 14).toNat = 0x3000 + 28 ∧ 28 < 4096 ∧ 28 % 4 = 0 ∧
    ({ idleState [.read 0x301C .word] with dstLen := 30 } : State).events = .read 0x301C .word :: [] ∧
    ({ idleState [.read 0x301C .word] with dstLen := 30 } : State).phase = .idle ∧
    28 + 1 < ({ idleState [.read 0x301C .word] with dstLen := 30 } : State).dstLen.toNat ∧
    ¬ 28 + 2 < ({ idleState [.read 0x301C .word] with dstLen := 30 } : State).dstLen.toNat := by decide

/-! The whole machine. -/

theorem witness_EveryStepKeepsTheInvariant :
    Inv (busyState []) ∧ step (busyState []) = .next (after (step (busyState []))) :=
  ⟨busyState_inv [], rfl⟩

theorem witness_NoFaultUnderTheInvariant : Inv (busyState [.hardReset]) := busyState_inv _

theorem witness_PhaseMovesAlongTheArcs :
    (busyState [.turn]).events.head? ≠ some .hardReset ∧
    step (busyState [.turn]) = .next (after (step (busyState [.turn]))) := ⟨by decide, rfl⟩

theorem witness_OperandsAreFrozenWhileBusy :
    (busyState [.write 0x10 (.word 64)]).phase ≠ .idle ∧
    (busyState [.write 0x10 (.word 64)]).events.head? ≠ some .hardReset ∧
    step (busyState [.write 0x10 (.word 64)]) =
      .next (after (step (busyState [.write 0x10 (.word 64)]))) := ⟨by decide, by decide, rfl⟩

/-- The host acknowledges, which clears `DONE` and not `ESTK`. -/
theorem witness_ErrorIsRememberedUntilReset :
    ({ idleState [.write 0x04 (.word 2)] with estk := true } : State).estk = true ∧
    step { idleState [.write 0x04 (.word 2)] with estk := true } =
      .next (after (step { idleState [.write 0x04 (.word 2)] with estk := true })) ∧
    (idleState [.write 0x04 (.word 2)]).events.head? ≠ some .hardReset ∧
    ¬ ((idleState [.write 0x04 (.word 2)]).phase = .idle ∧
      (idleState [.write 0x04 (.word 2)]).events.head? = some (.write 0x8 (.word (encode .rst)))) :=
  ⟨rfl, rfl, by decide, by decide⟩

theorem witness_CompletionRaisesTheInterrupt :
    (inPhase .finish (latchedBlocks .round 32 1 0) []).phase ≠ .idle ∧
    (inPhase .finish (latchedBlocks .round 32 1 0) []).events.head? ≠ some .hardReset ∧
    step (inPhase .finish (latchedBlocks .round 32 1 0) []) =
      .next (after (step (inPhase .finish (latchedBlocks .round 32 1 0) []))) ∧
    (after (step (inPhase .finish (latchedBlocks .round 32 1 0) []))).phase = .idle :=
  ⟨by decide, by decide, rfl, by decide⟩

theorem witness_EveryCommandEnds : Inv (busyState []) ∧ Undisturbed (busyState []) ∧
    (busyState []).phase ≠ .idle := ⟨busyState_inv [], ⟨rfl, rfl⟩, by decide⟩

/-- One state for each of the four clauses; a failing response, an answer, and a wrong one. -/
theorem witness_ResponsesOnThePort :
    ((waiting [] (.fail 1) false).phase = .fwait ∧ (waiting [] (.fail 1) false).events = [] ∧
      (waiting [] (.fail 1) false).mix.answering = false) ∧
    ((busyState [.response ⟨true, 0, 0⟩]).phase ≠ .fwait ∧
      (busyState [.response ⟨true, 0, 0⟩]).events = .response ⟨true, 0, 0⟩ :: []) ∧
    ((waiting [.response ⟨false, 0, 1⟩] (.fail 1) false).phase = .fwait ∧
      (waiting [.response ⟨false, 0, 1⟩] (.fail 1) false).events = .response ⟨false, 0, 1⟩ :: [] ∧
      latchedCommand (waiting [.response ⟨false, 0, 1⟩] (.fail 1) false) = some .round ∧
      mixFn (waiting [.response ⟨false, 0, 1⟩] (.fail 1) false).mix Half.zero = .fail 1) ∧
    mixFn (waiting [] (.ok (rep16 1)) false).mix Half.zero = .ok (halfOfBits (bitsOfHalf (rep16 1))) ∧
    mixFn (waiting [] (.fail 1) false).mix Half.zero ≠ .fail 2 :=
  ⟨by decide, by decide, by decide, by decide, by decide⟩

theorem witness_MixingFunctionIsFixedDuringACommand :
    (idleState [.attach ⟨1, [], true⟩]).phase = .idle ∧
    (idleState [.attach ⟨1, [], true⟩]).events = .attach ⟨1, [], true⟩ :: [] ∧
    (busyState [.attach ⟨1, [], true⟩]).phase ≠ .idle ∧
    (busyState [.attach ⟨1, [], true⟩]).events = .attach ⟨1, [], true⟩ :: [] := by decide

theorem witness_WaitPollsStatus :
    (idleState [.wait]).events = .wait :: [] ∧ (busyState [.wait]).events = .wait :: [] := by decide

theorem witness_PortBitsCarryTheHalf : 0 < 16 ∧ 15 < 16 := by decide

theorem witness_ExpectSpeaksOfTheReadBefore :
    acknowledged.events = scriptEvents [.rd .status, .wr .status 0x2] ++ [] ∧
    stepMany 2 acknowledged = .next (after (stepMany 2 acknowledged)) := ⟨by decide, rfl⟩

/-- Reset with given events meets the invariant. -/
theorem idleState_inv (es : List Event) : Inv (idleState es) where
  buffers := And.intro rfl (And.intro rfl rfl)
  report := ⟨(by decide : (0 : Nat) ≤ 8), fun _ => ⟨rfl, rfl, rfl⟩, nofun, fun h => (h rfl).elim, nofun,
    (by decide : (0 : Nat) ≤ 4096)⟩
  position := (by decide : (0 : Nat) ≤ 128)

theorem witness_CommandAndWaitEnds :
    Inv (idleState (scriptEvents [.cmd .enc, .wait])) ∧
    (idleState (scriptEvents [.cmd .enc, .wait])).phase = .idle ∧
    (idleState (scriptEvents [.cmd .enc, .wait])).mix.answering = true ∧
    (idleState (scriptEvents [.cmd .enc, .wait])).events = scriptEvents [.cmd .enc, .wait] ∧
    (busyState []).phase ≠ .idle :=
  ⟨idleState_inv _, rfl, rfl, rfl, by decide⟩

end Sys2Proof.Tests
end

section
/-! The decoder both ways, and what the sequencer keeps of the latches and counters (`PositionOk`). -/

namespace Sys2Proof.Machine

/-! ### The command word and the latch `OP` -/

@[simp] theorem decode_encode (i : Instr) : decode (encode i) = .ok i := by cases i <;> rfl

/-- `OP` holds all of a command's word that is not zero (R43, R92). -/
@[simp] theorem decode_latched_encode (i : Instr) :
    decode (((encode i).extractLsb' 0 5).setWidth 32) = .ok i := by cases i <;> rfl

/-- The three fields cover the word (R90). -/
theorem packFields_fieldsOf (w : Word) : packFields (fieldsOf w) = w := by
  apply BitVec.eq_of_getLsbD_eq
  intro k hk
  simp only [packFields, fieldsOf, BitVec.getLsbD_cast, BitVec.getLsbD_append,
    BitVec.getLsbD_extractLsb']
  grind

/-- An opcode other than 6 names the command with that opcode and `DIR = 0` (R92, R93). -/
theorem fields_of_decodeOpcode {opc : BitVec 4} {i : Instr} (h : decodeOpcode opc = .ok i) :
    i.fields = ⟨opc, 0, 0⟩ := by
  have hopc : opc = BitVec.ofNat 4 opc.toNat := by simp
  unfold decodeOpcode at h
  split at h <;> rename_i hn <;> cases h <;> rw [hopc, hn] <;> rfl

/-- Only the word of a command decodes to it (R93). -/
theorem eq_encode_of_decode {w : Word} {i : Instr} (h : decode w = .ok i) : w = encode i := by
  suffices hf : i.fields = fieldsOf w by rw [encode, hf, packFields_fieldsOf]
  unfold decode at h
  generalize fieldsOf w = f at h ⊢
  obtain ⟨opc, dir, zero⟩ := f
  have hdir : dir = 0 ∨ dir = 1 := BitVec.eq_zero_or_eq_one dir
  dsimp only at h
  split_ifs at h with hz ho hd hd
  · cases h; simp_all [Instr.fields]
  · cases h; simp_all [Instr.fields]
  · rw [fields_of_decodeOpcode h]; simp_all

theorem latchedCommand_eq_some {s : State} {i : Instr} :
    latchedCommand s = some i ↔ decode (s.latch.op.setWidth 32) = .ok i := by
  unfold latchedCommand
  split <;> simp_all

@[simp] theorem latchedCommand_enterExec (i : Instr) (s : State) :
    latchedCommand (enterExec (beginCommand i s)) = some i :=
  latchedCommand_eq_some.mpr (decode_latched_encode i)

@[simp] theorem latchedCommand_enterLoad (i : Instr) (reff : Word) (m : Byte) (nb : BitVec 8) (s : State) :
    latchedCommand (enterLoad reff m nb (beginCommand i s)) = some i :=
  latchedCommand_eq_some.mpr (decode_latched_encode i)

/-! ### The position after acceptance (R176) -/

theorem positionOk_idle {s : State} (hp : s.phase = .idle) : PositionOk s ↔ s.bcnt.toNat ≤ 128 := by
  simp [PositionOk, hp]

theorem positionOk_of_bcnt_zero {s : State} (hp : s.phase = .idle) (hb : s.bcnt = 0) : PositionOk s :=
  (positionOk_idle hp).mpr (by simp [hb])

theorem positionOk_rejected (e : ErrorKind) (info : Word) (i : Instr) (s : State) :
    PositionOk (raise e info (beginCommand i s)) := positionOk_of_bcnt_zero rfl rfl

theorem positionOk_enterExec {i : Instr} {s : State} (h : ExecLatchesOk (enterExec (beginCommand i s))) :
    PositionOk (enterExec (beginCommand i s)) := ⟨⟨rfl, rfl⟩, h, rfl, rfl⟩

theorem positionOk_enterLoad {i : Instr} {reff : Word} {m : Byte} {nb : BitVec 8} {s : State}
    (h : BlockLatchesOk (enterLoad reff m nb (beginCommand i s))) (hnb : 0 < nb.toNat) :
    PositionOk (enterLoad reff m nb (beginCommand i s)) := ⟨⟨rfl, rfl⟩, h, hnb, rfl⟩

theorem acceptXor_positionOk (s : State) : PositionOk (acceptXor s) := by
  unfold acceptXor
  split_ifs with hne hcap
  · exact positionOk_rejected ..
  · exact positionOk_rejected ..
  · apply positionOk_enterExec
    simpa [ExecLatchesOk] using And.intro (not_not.mp hne) (not_lt.mp hcap)

theorem acceptFlip_positionOk (s : State) : PositionOk (acceptFlip s) := by
  unfold acceptFlip
  split_ifs with hodd hcap
  · exact positionOk_rejected ..
  · exact positionOk_rejected ..
  · apply positionOk_enterExec
    simpa [ExecLatchesOk] using And.intro (Nat.mod_two_ne_one.mp hodd) (not_lt.mp hcap)

theorem acceptPad_positionOk (s : State) : PositionOk (acceptPad s) := by
  unfold acceptPad
  split_ifs with hcap
  · exact positionOk_rejected ..
  · apply positionOk_enterExec
    simpa [ExecLatchesOk] using hcap

theorem acceptUnpad_positionOk (s : State) : PositionOk (acceptUnpad s) := by
  unfold acceptUnpad
  split_ifs with hcap
  · exact positionOk_rejected ..
  · apply positionOk_enterExec
    simpa [ExecLatchesOk] using hcap

theorem acceptRound_positionOk (s : State) : PositionOk (acceptRound s) := by
  unfold acceptRound
  split_ifs with hlen
  · exact positionOk_rejected ..
  · have hb : s.srcLen.toNat = 32 := by simp at hlen; exact hlen.2
    exact positionOk_enterLoad (by simp [BlockLatchesOk, hb]) (by decide)

theorem acceptEnc_positionOk (s : State) : PositionOk (acceptEnc s) := by
  unfold acceptEnc
  split_ifs with hcap hr
  · exact positionOk_rejected ..
  · exact positionOk_rejected ..
  · have hn : s.srcLen.toNat < 4096 := Nat.lt_of_not_le hcap
    have hnb : (BitVec.ofNat 8 (s.srcLen.toNat / 32 + 1)).toNat = s.srcLen.toNat / 32 + 1 := by
      simp only [BitVec.toNat_ofNat]; omega
    apply positionOk_enterLoad
    · simp only [BlockLatchesOk, latchedCommand_enterLoad]
      exact ⟨hn, rfl, hr, rfl, hnb⟩
    · rw [blockSize_eq, hnb]; omega

theorem acceptDec_positionOk (s : State) : PositionOk (acceptDec s) := by
  unfold acceptDec
  split_ifs with hlen hcap hr
  · exact positionOk_rejected ..
  · exact positionOk_rejected ..
  · exact positionOk_rejected ..
  · simp only [blockSize_eq, cap_eq, not_or, not_not, not_lt] at hlen hcap
    obtain ⟨hpos, hmod⟩ := hlen
    have hnb : (BitVec.ofNat 8 (s.srcLen.toNat / 32)).toNat = s.srcLen.toNat / 32 := by
      simp only [BitVec.toNat_ofNat]; omega
    apply positionOk_enterLoad
    · simp only [BlockLatchesOk, latchedCommand_enterLoad]
      exact ⟨hpos, hmod, hcap, rfl, hr, rfl, hnb⟩
    · rw [blockSize_eq, hnb]; omega

/-- Acceptance leaves the latches and counters as its checks and R176 say. -/
theorem exec_idle_positionOk {i : Instr} {s t : State} (hp : s.phase = .idle)
    (h : exec i s = .next t) : PositionOk t := by
  cases i <;> simp only [exec, execXor, execRound, execFlip, execPad, execUnpad, execEnc, execDec,
    execRst, hp, Host.Outcome.next.injEq] at h <;> subst h
  case xor => exact acceptXor_positionOk s
  case round => exact acceptRound_positionOk s
  case flip => exact acceptFlip_positionOk s
  case pad => exact acceptPad_positionOk s
  case unpad => exact acceptUnpad_positionOk s
  case enc => exact acceptEnc_positionOk s
  case dec => exact acceptDec_positionOk s
  case rst => exact positionOk_of_bcnt_zero rfl rfl

/-! ### The position after a step of the command in progress (R177 to R182) -/

/-- No command has more than `CAP/B` blocks, and every one has a round to do (R174). -/
theorem BlockLatchesOk.bounds {s : State} (h : BlockLatchesOk s) :
    s.latch.nb.toNat ≤ 128 ∧ 0 < s.latch.reff.toNat := by
  unfold BlockLatchesOk at h
  split at h
  · obtain ⟨-, hr, -, hnb⟩ := h
    simp [hr, hnb]
  · obtain ⟨hn, hr, hpos, -, hnb⟩ := h
    simp only [blockSize_eq, cap_eq] at hn hnb
    exact ⟨by omega, by rw [hr]; exact Nat.pos_of_ne_zero (BitVec.toNat_ne_iff_ne.mpr hpos)⟩
  · obtain ⟨-, -, hn, hr, hpos, -, hnb⟩ := h
    simp only [blockSize_eq, cap_eq] at hn hnb
    exact ⟨by omega, by rw [hr]; exact Nat.pos_of_ne_zero (BitVec.toNat_ne_iff_ne.mpr hpos)⟩
  · exact h.elim

/-- While a command is in progress the latches are as its acceptance checks left them. -/
theorem PositionOk.latchesOk {s : State} (h : PositionOk s) (hb : s.phase ≠ .idle) :
    s.phase = .exec ∧ ExecLatchesOk s ∨ s.phase ≠ .exec ∧ BlockLatchesOk s := by
  cases hp : s.phase <;> simp only [PositionOk, hp] at h
  case idle => exact absurd hp hb
  case exec =>
    obtain ⟨-, hl, -⟩ := h
    exact .inl ⟨rfl, hl⟩
  all_goals
    obtain ⟨-, hl, -⟩ := h
    exact .inr ⟨by simp, hl⟩

/-- Where a command can end, `BCNT` is 0 or the number of its blocks. -/
theorem PositionOk.bcnt_at_end {s : State} (h : PositionOk s) (hp : s.phase = .exec ∨ s.phase = .finish) :
    s.bcnt.toNat ≤ 128 := by
  rcases hp with hp | hp <;> simp only [PositionOk, hp] at h
  · obtain ⟨-, -, hb, -⟩ := h
    simp [hb]
  · obtain ⟨-, hl, hb, -⟩ := h
    exact hb ▸ hl.bounds.1

/-- A counter below a bound does not wrap around. -/
theorem toNat_add_one_of_lt {a b : Word} (h : a.toNat < b.toNat) : (a + 1).toNat = a.toNat + 1 := by
  rw [BitVec.toNat_add]
  exact Nat.mod_eq_of_lt (by have := b.isLt; simp; omega)

theorem runs_positionOk {s t : State} (h : PositionOk s) (hr : Runs s t) : PositionOk t := by
  cases hr with
  | result v hp _ => exact (positionOk_idle rfl).mpr (h.bcnt_at_end (.inl hp))
  | error e info hp => exact (positionOk_idle rfl).mpr (h.bcnt_at_end hp)
  | finish len hp _ => exact (positionOk_idle rfl).mpr (h.bcnt_at_end (.inr hp))
  | load l r hp =>
    simp only [PositionOk, hp] at h
    obtain ⟨hop, hl, hb, hrc⟩ := h
    exact ⟨hop, hl, hb, by simp [hrc, hl.bounds.2]⟩
  | request hp =>
    simp only [PositionOk, hp] at h
    obtain ⟨hop, hl, hb, hrc⟩ := h
    exact ⟨hop, hl, hb, hrc, rfl⟩
  | response hp =>
    simp only [PositionOk, hp] at h
    obtain ⟨hop, hl, hb, hrc, -⟩ := h
    cases mixFn s.mix s.right with
    | fail code => exact (positionOk_idle rfl).mpr (hb.le.trans hl.bounds.1)
    | ok y =>
      rw [responseStep_ok]
      by_cases hlast : s.rcnt + 1 = s.latch.reff
      · rw [if_pos hlast]
        exact ⟨hop, hl, hb, hlast⟩
      · rw [if_neg hlast]
        have hsucc := toNat_add_one_of_lt hrc
        have hne := BitVec.toNat_ne_iff_ne.mpr hlast
        have hnext : (s.rcnt + 1).toNat < s.latch.reff.toNat := by omega
        exact ⟨hop, hl, hb, hnext⟩
  | store b hp hcap =>
    simp only [PositionOk, hp] at h
    obtain ⟨hop, hl, hb, -⟩ := h
    have hnb : (s.latch.nb.setWidth 32).toNat = s.latch.nb.toNat := BitVec.toNat_setWidth_of_le (by decide)
    by_cases hlast : s.bcnt + 1 = s.latch.nb.setWidth 32
    · rw [if_pos hlast]
      exact ⟨hop, hl, hlast ▸ hnb, rfl⟩
    · rw [if_neg hlast]
      have hsucc := toNat_add_one_of_lt (hb.trans_eq hnb.symm)
      have hne := BitVec.toNat_ne_iff_ne.mpr hlast
      have hnext : (s.bcnt + 1).toNat < s.latch.nb.toNat := by omega
      exact ⟨hop, hl, hnext, rfl⟩

end Sys2Proof.Machine
end

section
/-! The invariant of the machine, kept by every step (R24, R29, R34, R36, R40, R43, R174). -/

namespace Sys2Proof.Machine

/-! ### What the invariant does not speak of -/

/-- The invariant says nothing of the events, the port's record, the free values used, `WRBUSY` and the unit. -/
theorem Inv.environment {s : State} (h : Inv s) (es : List Event) (rs : List Reply) (d : Nat) (wb : Bool)
    (u : MixUnit) : Inv { s with events := es, replies := rs, draws := d, wrbusy := wb, mix := u } :=
  ⟨h.buffers, ⟨h.report.code_range, h.report.no_error, h.report.an_error, h.report.unit_code,
    h.report.while_busy, h.report.length_range⟩, h.position⟩

theorem inv_reply {s : State} (h : Inv s) (r : Reply) : Inv (reply r s) := h.environment ..

theorem inv_hostRead {s : State} (h : Inv s) (addr : BitVec 14) (size : Size) : Inv (hostRead addr size s) := by
  obtain ⟨r, d, hr⟩ := hostRead_frame addr size s
  rw [hr]
  exact h.environment ..

theorem inv_waitStep {s : State} (h : Inv s) : Inv (waitStep s) := (inv_hostRead h 0x4 .word).environment ..

/-! ### The report -/

/-- A report without error, whatever the result length in range. -/
theorem reportOk_clear {s : State} (herr : s.err = false) (hcode : s.errcode = 0) (hinfo : s.errinfo = 0)
    (hf : s.fcode = 0) (hdone : busy s = true → s.done = false ∧ s.dstLen = 0) (hlen : s.dstLen.toNat ≤ 4096) :
    ReportOk s where
  code_range := by simp [hcode]
  no_error _ := ⟨hcode, hinfo, hf⟩
  an_error h := by simp [herr] at h
  unit_code h := absurd hf h
  while_busy hb := ⟨(hdone hb).1, herr, (hdone hb).2⟩
  length_range := hlen

theorem errorCode_range (e : ErrorKind) : errorCode e ≠ 0 ∧ (errorCode e).toNat ≤ 8 := by
  cases e <;> decide

/-- The error termination leaves a report that fits together, if the unit's code is that of a `MixFault` (R236). -/
theorem reportOk_raise (e : ErrorKind) (info : Word) (s : State)
    (hf : s.fcode ≠ 0 → e = .mixFault) : ReportOk (raise e info s) where
  code_range := (errorCode_range e).2
  no_error h := by simp at h
  an_error _ := ⟨(errorCode_range e).1, rfl, rfl⟩
  unit_code h := by rw [raise_errcode, hf h]
  while_busy hb := by simp [busy] at hb
  length_range := by simp

/-- While a command is in progress nothing is reported of it yet. -/
theorem ReportOk.busy_clear {s : State} (h : ReportOk s) (hb : s.phase ≠ .idle) :
    s.done = false ∧ s.err = false ∧ s.dstLen = 0 ∧ s.errcode = 0 ∧ s.errinfo = 0 ∧ s.fcode = 0 := by
  obtain ⟨hd, he, hl⟩ := h.while_busy (busy_eq_true.mpr hb)
  exact ⟨hd, he, hl, h.no_error he⟩

/-! ### The steps of a command -/

theorem accepts_reportOk {i : Instr} {s t : State} (h : Accepts i s t) : ReportOk t := by
  cases h with
  | error e info => exact reportOk_raise e info _ (absurd rfl)
  | exec => exact reportOk_clear rfl rfl rfl rfl (fun _ => ⟨rfl, rfl⟩) (by simp)
  | load => exact reportOk_clear rfl rfl rfl rfl (fun _ => ⟨rfl, rfl⟩) (by simp)
  | reset => exact reportOk_clear rfl rfl rfl rfl (fun _ => ⟨rfl, rfl⟩) (by simp)

theorem accepts_buffersOk {i : Instr} {s t : State} (hs : BuffersOk s) (h : Accepts i s t) : BuffersOk t := by
  cases h <;> exact hs

/-- The acceptance of a command keeps the invariant, and needs of it the buffers alone (R176). -/
theorem inv_exec_idle {i : Instr} {s t : State} (hs : BuffersOk s) (hp : s.phase = .idle)
    (h : exec i s = .next t) : Inv t := by
  obtain ⟨t', ht', ha⟩ := exec_idle i hp
  cases ht'.symm.trans h
  exact ⟨accepts_buffersOk hs ha, accepts_reportOk ha, exec_idle_positionOk hp h⟩

theorem Runs.busy {s t : State} (h : Runs s t) : s.phase ≠ .idle := by
  cases h with
  | error _ _ hp => rcases hp with hp | hp <;> simp [hp]
  | result _ hp | load _ _ hp | request hp | response hp | store _ hp | finish _ hp => simp [hp]

/-- The result length of a `FINISH` step is one of a buffer (R174, R182). -/
theorem PositionOk.finish_length {s : State} (h : PositionOk s) (hp : s.phase = .finish) {len : Nat}
    (hl : len = s.latch.nb.toNat * 32 ∨ len ≤ 4096) : len ≤ 4096 := by
  simp only [PositionOk, hp] at h
  obtain ⟨-, hlat, -⟩ := h
  have := hlat.bounds.1
  omega

theorem runs_reportOk {s t : State} (h : Inv s) (hr : Runs s t) : ReportOk t := by
  obtain ⟨hdone, herr, hlen, hcode, hinfo, hf⟩ := h.report.busy_clear hr.busy
  cases hr with
  | error e info _ => exact reportOk_raise e info s (absurd hf)
  | response _ =>
    cases mixFn s.mix s.right with
    | fail code => exact reportOk_raise _ _ _ fun _ => rfl
    | ok y => exact reportOk_clear herr hcode hinfo hf (fun _ => ⟨hdone, hlen⟩) h.report.length_range
  | result v _ hv => exact reportOk_clear herr hcode hinfo hf nofun (by simp; omega)
  | finish len hp hl =>
    have := h.position.finish_length hp hl
    exact reportOk_clear herr hcode hinfo hf nofun (by simp; omega)
  | load | request | store =>
    exact reportOk_clear herr hcode hinfo hf (fun _ => ⟨hdone, hlen⟩) h.report.length_range

theorem runs_buffersOk {s t : State} (h : BuffersOk s) (hr : Runs s t) : BuffersOk t := by
  obtain ⟨hi, hx, ho⟩ := h
  cases hr with
  | result v _ hv => exact ⟨hi, hx, Memory.wf_memPutSeq v (by simpa using hv) ho⟩
  | store b _ hb =>
    exact ⟨hi, hx, Memory.wf_memPutSeq _ (by rw [blockBytes_length, cap_eq]; omega) ho⟩
  | response _ => cases mixFn s.mix s.right <;> exact ⟨hi, hx, ho⟩
  | error | load | request | finish => exact ⟨hi, hx, ho⟩

theorem inv_runs {s t : State} (h : Inv s) (hr : Runs s t) : Inv t :=
  ⟨runs_buffersOk h.buffers hr, runs_reportOk h hr, runs_positionOk h.position hr⟩

/-! ### The host port and the resets -/

/-- While idle the invariant leaves `CTRL`, `DONE`, `WRBUSY` and the configuration free, and the operand buffers but for
their form. -/
theorem inv_idle_update {s : State} (h : Inv s) (hp : s.phase = .idle) (ie done wb : Bool) (rounds n n2 : Word)
    {ib xb : List Host.Cell} (hi : Memory.wf ib = true) (hx : Memory.wf xb = true) :
    Inv { s with
      ie := ie, done := done, wrbusy := wb, rounds := rounds, srcLen := n, src2Len := n2, ibuf := ib, xbuf := xb } where
  buffers := ⟨hi, hx, h.buffers.2.2⟩
  report := ⟨h.report.code_range, h.report.no_error, h.report.an_error, h.report.unit_code,
    fun hb => absurd hp (busy_eq_true.mp hb), h.report.length_range⟩
  position := (positionOk_idle (by exact hp)).mpr ((positionOk_idle hp).mp h.position)

theorem inv_regWrite {s : State} (h : Inv s) (hp : s.phase = .idle) (r : Reg) (v : Word) : Inv (regWrite r v s) := by
  have hu := fun ie done wb rounds n n2 => inv_idle_update h hp ie done wb rounds n n2 h.buffers.1 h.buffers.2.1
  cases r
  case ctrl => exact hu (v.getLsbD 0) s.done s.wrbusy s.rounds s.srcLen s.src2Len
  case status => exact hu s.ie _ _ s.rounds s.srcLen s.src2Len
  case rounds => exact hu s.ie s.done s.wrbusy v s.srcLen s.src2Len
  case srcLen => exact hu s.ie s.done s.wrbusy s.rounds v s.src2Len
  case src2Len => exact hu s.ie s.done s.wrbusy s.rounds s.srcLen v
  all_goals exact h

theorem inv_bufWrite {s : State} (h : Inv s) (hp : s.phase = .idle) (b : Buf) {i : Nat} {v : List Byte}
    (hv : i + v.length ≤ 4096) : Inv (bufWrite b i v s) := by
  obtain ⟨hi, hx, -⟩ := h.buffers
  cases b with
  | ibuf => exact inv_idle_update h hp s.ie s.done s.wrbusy _ _ _ (Memory.wf_memPutSeq v hv hi) hx
  | xbuf => exact inv_idle_update h hp s.ie s.done s.wrbusy _ _ _ hi (Memory.wf_memPutSeq v hv hx)
  | obuf => exact h

theorem inv_writeDoes {s t : State} (h : Inv s) (hw : WriteDoes s (t, none)) : Inv t := by
  cases hw with
  | error => exact inv_reply h _
  | dropped => exact h.environment ..
  | register r v hb => exact inv_reply (inv_regWrite h (busy_eq_false.mp hb) r v) _
  | buffer b i v hb _ hv => exact inv_reply (inv_bufWrite h (busy_eq_false.mp hb) b hv) _

theorem inv_illegal {s : State} (h : BuffersOk s) (w : Word) : Inv (raise .illegalCommand w (acceptClear s)) :=
  ⟨h, reportOk_raise _ _ _ (absurd rfl), positionOk_of_bcnt_zero rfl rfl⟩

theorem inv_hardReset (s : State) : Inv (hardReset s) :=
  ⟨⟨rfl, rfl, rfl⟩, reportOk_clear rfl rfl rfl rfl nofun (by simp), positionOk_of_bcnt_zero rfl rfl⟩

/-! ### Every step -/

theorem inv_moves {s t : State} (h : Inv s) (hm : Moves s t) : Inv t := by
  cases hm with
  | stays => exact h
  | runs i _ hp _ he => exact inv_runs h (exec_busy hp he)
  | reads addr size => exact inv_hostRead h addr size
  | waits => exact inv_waitStep h
  | writes _ hw => exact inv_writeDoes h hw
  | accepts i _ hp he => exact inv_exec_idle (s := reply .ok s) h.buffers hp he
  | illegal w _ => exact inv_illegal (s := reply .ok s) h.buffers w
  | attaches u _ => exact h.environment ..
  | resets => exact inv_hardReset s

/-- Settles O47: whatever moves, the invariant is kept (`inv_moves`), and taking the event off the list leaves it. -/
theorem everyStepKeepsTheInvariant : Obligations.EveryStepKeepsTheInvariant := by
  intro s t h hstep
  exact inv_moves (h.environment ..) (step_next hstep)

/-- Settles O46: the buffers list nothing, the report is clear, and `BCNT` is 0. -/
theorem resetMeetsTheInvariant : Obligations.ResetMeetsTheInvariant :=
  ⟨State.reset_memory_wf, reportOk_clear rfl rfl rfl rfl nofun (by decide), positionOk_of_bcnt_zero rfl rfl⟩

end Sys2Proof.Machine
end

section
/-! What a command's outcome depends on (R194): two machines that agree on the operands, the configuration and `F` run
the same command in step, whatever else they hold (`Twin`). -/

namespace Sys2Proof.Machine

/-! ### Twin states -/

/-- The first `n` bytes of a buffer are the same in two states. -/
def SameBytes (b : Buf) (s s' : State) (n : Nat) : Prop := ∀ j, j < n → bufByte b s j = bufByte b s' j

/-- Two states of undisturbed machines in the same place of the same command: they agree on what the command reads, on
the blocks it has stored, and on all that it reports. While idle the latches and halves may differ, and so may `OBUF`
past the result. -/
structure Twin (s s' : State) : Prop where
  quiet : s.events = [] ∧ s'.events = []
  operands : SameOperands s s'
  phase : s.phase = s'.phase
  bcnt : s.bcnt = s'.bcnt
  rcnt : s.rcnt = s'.rcnt
  err : s.err = s'.err
  errcode : s.errcode = s'.errcode
  errinfo : s.errinfo = s'.errinfo
  fcode : s.fcode = s'.fcode
  dstLen : s.dstLen = s'.dstLen
  latch : s.phase ≠ .idle → s.latch = s'.latch
  halves : s.phase = .freq ∨ s.phase = .fwait ∨ s.phase = .store → s.left = s'.left ∧ s.right = s'.right
  stored : s.phase ≠ .idle → SameBytes .obuf s s' (s.bcnt.toNat * 32)
  result : s.phase = .idle → SameBytes .obuf s s' s.dstLen.toNat

theorem Twin.sameOutcome {s s' : State} (T : Twin s s') (hp : s.phase = .idle) : SameOutcome s s' := by
  refine ⟨?_, T.dstLen, T.err, T.errcode, T.errinfo, T.fcode, T.rcnt, T.bcnt⟩
  rw [hostResult, hostResult, ← T.dstLen]
  exact List.map_congr_left fun j hj => T.result hp _ (by simpa using hj)

/-- Where `r` answers a next state, `r'` answers a twin of it. -/
def Follows (r r' : Res) : Prop := ∀ t, r = .next t → ∃ t', r' = .next t' ∧ Twin t t'

theorem follows_next {t t' : State} (T : Twin t t') : Follows (.next t) (.next t') := by
  rintro _ ⟨⟩
  exact ⟨t', rfl, T⟩

theorem follows_withinBuffer {n : Nat} {r r' : Res} (h : n ≤ 4096 → Follows r r') :
    Follows (withinBuffer n r) (withinBuffer n r') := by
  intro t ht
  obtain ⟨hn, hr⟩ := withinBuffer_next ht
  rw [withinBuffer_le r' hn]
  exact h hn t hr

/-! ### The shared steps of the sequencer keep twins -/

/-- The bytes written are the same, and below them nothing changes. -/
theorem sameBytes_storeObuf {s s' : State} {a : Nat} (h : SameBytes .obuf s s' a) (v : List Byte) :
    SameBytes .obuf (storeObuf a v s) (storeObuf a v s') (a + v.length) := by
  intro j hj
  simp only [bufByte_storeObuf, true_and]
  split
  · have hv : j - a < v.length := by omega
    simp [hv]
  · exact h j (by omega)

theorem sameBytes_zero (b : Buf) (s s' : State) : SameBytes b s s' 0 := fun j hj => absurd hj (Nat.not_lt_zero j)

theorem sameBytes_mono {b : Buf} {s s' : State} {n m : Nat} (h : SameBytes b s s' n) (hm : m ≤ n) :
    SameBytes b s s' m := fun j hj => h j (by omega)

theorem twin_raise {s s' : State} (T : Twin s s') (e : ErrorKind) (info : Word) :
    Twin (raise e info s) (raise e info s') :=
  { T with
    phase := rfl, err := rfl, errcode := rfl, errinfo := rfl, dstLen := rfl
    latch := absurd rfl, halves := by simp, stored := absurd rfl, result := fun _ => sameBytes_zero _ _ _ }

theorem follows_putResult {s s' : State} (T : Twin s s') (v : List Byte) :
    Follows (putResult v s) (putResult v s') := by
  refine follows_withinBuffer fun hv => follows_next ?_
  have hstore := sameBytes_storeObuf (sameBytes_zero .obuf s s') v
  exact { T with
    phase := rfl, dstLen := rfl, latch := absurd rfl, halves := by simp, stored := absurd rfl
    result := fun _ => sameBytes_mono hstore (by simp; omega) }

theorem follows_loadStep {s s' : State} (T : Twin s s') (hp : s.phase = .load) {p p' : Nat → Byte}
    (hb : blockAt p s.bcnt.toNat = blockAt p' s.bcnt.toNat) : Follows (loadStep p s) (loadStep p' s') := by
  intro t ht
  obtain ⟨hcap, rfl⟩ := loadStep_next ht
  refine ⟨_, loadStep_le p' s' (T.bcnt ▸ hcap), ?_⟩
  rw [T.bcnt] at hb
  exact { T with
    phase := rfl, latch := fun _ => T.latch (by simp [hp]), halves := fun _ => by simp [T.bcnt, hb]
    stored := fun _ => T.stored (by simp [hp]), result := nofun }

theorem twin_requestStep {s s' : State} (T : Twin s s') (hp : s.phase = .freq) :
    Twin (requestStep s) (requestStep s') :=
  { T with
    phase := rfl, latch := fun _ => T.latch (by simp [hp]), halves := fun _ => T.halves (.inl hp)
    stored := fun _ => T.stored (by simp [hp]), result := nofun }

theorem twin_responseStep {s s' : State} (T : Twin s s') (hp : s.phase = .fwait) (a : MixAnswer) :
    Twin (responseStep a s) (responseStep a s') := by
  have hb : s.phase ≠ .idle := by simp [hp]
  cases a with
  | fail code =>
    exact twin_raise (s := { s with fcode := code }) (s' := { s' with fcode := code }) { T with fcode := rfl } ..
  | ok y =>
    obtain ⟨hl, hr⟩ := T.halves (.inr (.inl hp))
    have hlat := T.latch hb
    exact { T with
      phase := by simp [T.rcnt, hlat]
      rcnt := by simp [T.rcnt]
      latch := fun _ => hlat, halves := fun _ => by simp [hl, hr]
      stored := fun _ => T.stored hb
      result := fun hi => by simp only [responseStep_ok] at hi; split at hi <;> cases hi }

theorem follows_storeStep {s s' : State} (T : Twin s s') (hp : s.phase = .store) (b : Block) :
    Follows (storeStep b s) (storeStep b s') := by
  have hb : s.phase ≠ .idle := by simp [hp]
  intro t ht
  obtain ⟨hcap, rfl⟩ := storeStep_next ht
  have ht' := storeStep_le b s' (T.bcnt ▸ hcap)
  rw [← T.bcnt, ← T.latch hb] at ht'
  have hstore := sameBytes_storeObuf (T.stored hb) (blockBytes b)
  have hnext : (s.bcnt + 1).toNat * 32 ≤ s.bcnt.toNat * 32 + (blockBytes b).length := by
    have : (s.bcnt + 1).toNat ≤ s.bcnt.toNat + 1 := Nat.mod_le ..
    rw [blockBytes_length]; omega
  exact ⟨_, ht', { T with
    phase := rfl, bcnt := rfl, rcnt := rfl, latch := fun _ => rfl
    halves := fun h => by dsimp only at h; split at h <;> simp at h
    stored := fun _ => sameBytes_mono hstore hnext
    result := fun h => by dsimp only at h; split at h <;> cases h }⟩

theorem twin_finishWith {s s' : State} (T : Twin s s') (hp : s.phase = .finish) {len : Nat}
    (hlen : len ≤ s.bcnt.toNat * 32) : Twin (finishWith len s) (finishWith len s') :=
  { T with
    phase := rfl, dstLen := rfl, latch := absurd rfl, halves := by simp, stored := absurd rfl
    result := fun _ => sameBytes_mono (T.stored (by simp [hp])) (by simp; omega) }

/-! ### The operands of twins -/

/-- A command in progress reads the same bytes of `IBUF` in twins. -/
theorem Twin.ibuf_eq {s s' : State} (T : Twin s s') (hop : OperandsLatched s) (hn : s.latch.n.toNat ≤ 4096) :
    SameBytes .ibuf s s' s.latch.n.toNat := by
  obtain ⟨-, -, -, -, hi, -⟩ := T.operands
  exact fun j hj => hi j (by rw [cap_eq]; omega) (hop.1 ▸ hj)

/-- And the same bytes of `XBUF`. -/
theorem Twin.xbuf_eq {s s' : State} (T : Twin s s') (hop : OperandsLatched s) (hn : s.latch.n2.toNat ≤ 4096) :
    SameBytes .xbuf s s' s.latch.n2.toNat := by
  obtain ⟨-, -, -, -, -, hx⟩ := T.operands
  exact fun j hj => hx j (by rw [cap_eq]; omega) (hop.2 ▸ hj)

theorem bufSlice_eq_of_sameBytes {b : Buf} {s s' : State} {n : Nat} (h : SameBytes b s s' n) :
    bufSlice b s 0 n = bufSlice b s' 0 n :=
  List.map_congr_left fun j hj => by simpa using h j (by simpa using hj)

theorem Twin.operandA_eq {s s' : State} (T : Twin s s') (hb : s.phase ≠ .idle) (hop : OperandsLatched s)
    (hn : s.latch.n.toNat ≤ 4096) : operandA s' = operandA s := by
  rw [operandA, operandA, ← T.latch hb, bufSlice_eq_of_sameBytes (T.ibuf_eq hop hn)]

theorem Twin.operandB_eq {s s' : State} (T : Twin s s') (hb : s.phase ≠ .idle) (hop : OperandsLatched s)
    (hn : s.latch.n2.toNat ≤ 4096) : operandB s' = operandB s := by
  rw [operandB, operandB, ← T.latch hb, bufSlice_eq_of_sameBytes (T.xbuf_eq hop hn)]

/-- Two inputs that agree up to the end of a block have that block in common. -/
theorem blockAt_congr {p p' : Nat → Byte} {k : Nat} (h : ∀ j, j < (k + 1) * 32 → p j = p' j) :
    blockAt p k = blockAt p' k := by
  simp only [blockAt, blockSize_eq, half_eq, Prod.mk.injEq]
  exact ⟨halfOf_congr fun j hj => h _ (by omega), halfOf_congr fun j hj => h _ (by omega)⟩

/-! ### A step of the command in progress keeps twins -/

/-- The `EXEC` step of `XOR`, `FLIP`, `PAD` and `UNPAD` depends on the operands alone. -/
theorem follows_execPhase {i : Instr} {s s' : State} (T : Twin s s') (h : PositionOk s) (hp : s.phase = .exec)
    (hl : latchedCommand s = some i) : Follows (exec i s) (exec i s') := by
  have hb : s.phase ≠ .idle := by simp [hp]
  have hp' := T.phase.symm.trans hp
  simp only [PositionOk, hp, ExecLatchesOk, hl] at h
  obtain ⟨hop, hlat, -⟩ := h
  cases i with
  | xor =>
    obtain ⟨heq, hn⟩ := hlat
    simp only [exec, execXor, hp, hp', T.operandA_eq hb hop hn, T.operandB_eq hb hop (heq ▸ hn), ← T.latch hb]
    cases xorSeq (operandA s) (operandB s) with
    | some c => exact follows_putResult T c
    | none => exact follows_next (twin_raise T ..)
  | flip =>
    simp only [exec, execFlip, hp, hp', T.operandA_eq hb hop hlat.2, ← T.latch hb]
    cases flipSeq (operandA s) with
    | some c => exact follows_putResult T c
    | none => exact follows_next (twin_raise T ..)
  | pad =>
    simp only [exec, execPad, hp, hp', T.operandA_eq hb hop hlat.le]
    exact follows_putResult T _
  | unpad =>
    simp only [exec, execUnpad, hp, hp', T.operandA_eq hb hop hlat, ← T.latch hb]
    refine follows_withinBuffer fun _ => ?_
    cases unpad (operandA s) with
    | ok v => exact follows_putResult T v
    | error m => exact follows_next (twin_raise T ..)
  | round | enc | dec | rst => exact hlat.elim

/-- The `FINISH` step of `DEC` unpads the blocks stored, which twins have in common. -/
theorem follows_finishDec {s s' : State} (T : Twin s s') (hp : s.phase = .finish)
    (hn : s.latch.n.toNat ≤ s.bcnt.toNat * 32) : Follows (finishDec s) (finishDec s') := by
  have hb : s.phase ≠ .idle := by simp [hp]
  have hout : storedOutput s' = storedOutput s := by
    rw [storedOutput, storedOutput, ← T.latch hb, bufSlice_eq_of_sameBytes (sameBytes_mono (T.stored hb) hn)]
  simp only [finishDec, hout, ← T.latch hb, unpad_eq_unpadV]
  refine follows_withinBuffer fun _ => ?_
  cases hu : unpadV (storedOutput s) with
  | error m => exact follows_next (twin_raise T ..)
  | ok v =>
    have hv := unpadV_length_le hu
    rw [storedOutput, bufSlice_length] at hv
    exact follows_next (twin_finishWith T hp (hv.trans hn))

/-- The commands on blocks are `ROUND`, `ENC` and `DEC`. -/
theorem BlockLatchesOk.command {s : State} {i : Instr} (h : BlockLatchesOk s) (hl : latchedCommand s = some i) :
    i = .round ∨ i = .enc ∨ i = .dec := by
  cases i <;> simp_all [BlockLatchesOk]

theorem exec_freq {i : Instr} {s : State} (hi : i = .round ∨ i = .enc ∨ i = .dec) (hp : s.phase = .freq) :
    exec i s = .next (requestStep s) := by
  rcases hi with rfl | rfl | rfl <;> simp only [exec, execRound, execEnc, execDec, hp]

theorem exec_fwait {i : Instr} {s : State} (hi : i = .round ∨ i = .enc ∨ i = .dec) (hp : s.phase = .fwait) :
    exec i s = .next (responseStep (mixFn s.mix s.right) s) := by
  rcases hi with rfl | rfl | rfl <;> simp only [exec, execRound, execEnc, execDec, hp]

/-- The `LOAD` step takes a block of the operand, padded or not. -/
theorem follows_loadPhase {i : Instr} {s s' : State} (T : Twin s s') (h : PositionOk s) (hp : s.phase = .load)
    (hl : latchedCommand s = some i) : Follows (exec i s) (exec i s') := by
  have hb : s.phase ≠ .idle := by simp [hp]
  have hp' := T.phase.symm.trans hp
  simp only [PositionOk, hp] at h
  obtain ⟨hop, hlat, hlt, -⟩ := h
  rcases hlat.command hl with rfl | rfl | rfl <;> simp only [BlockLatchesOk, hl, blockSize_eq, cap_eq] at hlat <;>
    simp only [exec, execRound, execEnc, execDec, hp, hp']
  case inl =>
    obtain ⟨hn, -, -, hnb⟩ := hlat
    refine follows_loadStep T hp (blockAt_congr fun j hj => T.ibuf_eq hop (by omega) j ?_)
    simp only [hnb, BitVec.reduceToNat] at hlt
    omega
  case inr.inl =>
    refine follows_loadStep T hp (blockAt_congr fun j _ => ?_)
    simp only [encInput, ← T.latch hb]
    split
    · exact T.ibuf_eq hop (by omega) j ‹_›
    · rfl
  case inr.inr =>
    obtain ⟨-, hmod, hn, -, -, -, hnb⟩ := hlat
    exact follows_loadStep T hp (blockAt_congr fun j hj => T.ibuf_eq hop hn j (by omega))

theorem follows_storePhase {i : Instr} {s s' : State} (T : Twin s s') (hi : i = .round ∨ i = .enc ∨ i = .dec)
    (hp : s.phase = .store) : Follows (exec i s) (exec i s') := by
  have hp' := T.phase.symm.trans hp
  obtain ⟨hl, hr⟩ := T.halves (.inr (.inr hp))
  rcases hi with rfl | rfl | rfl <;> simp only [exec, execRound, execEnc, execDec, hp, hp', ← hl, ← hr] <;>
    exact follows_storeStep T hp _

theorem follows_finishPhase {i : Instr} {s s' : State} (T : Twin s s') (h : PositionOk s) (hp : s.phase = .finish)
    (hl : latchedCommand s = some i) : Follows (exec i s) (exec i s') := by
  have hp' := T.phase.symm.trans hp
  have hlatch := T.latch (by simp [hp])
  simp only [PositionOk, hp] at h
  obtain ⟨-, hlat, hbcnt, -⟩ := h
  rcases hlat.command hl with rfl | rfl | rfl <;> simp only [BlockLatchesOk, hl, blockSize_eq, cap_eq] at hlat <;>
    simp only [exec, execRound, execEnc, execDec, hp, hp', ← hlatch]
  case inl =>
    obtain ⟨-, -, -, hnb⟩ := hlat
    exact follows_next (twin_finishWith T hp (by simp [hbcnt, hnb]))
  case inr.inl => exact follows_next (twin_finishWith T hp (by rw [hbcnt]))
  case inr.inr =>
    obtain ⟨-, hmod, -, -, -, -, hnb⟩ := hlat
    exact follows_finishDec T hp (by omega)

/-- One step of the command in progress keeps twins. -/
theorem follows_exec {i : Instr} {s s' : State} (T : Twin s s') (h : PositionOk s) (hb : s.phase ≠ .idle)
    (hl : latchedCommand s = some i) : Follows (exec i s) (exec i s') := by
  have hblock : s.phase ≠ .exec → i = .round ∨ i = .enc ∨ i = .dec := by
    intro hx
    rcases h.latchesOk hb with ⟨hexec, -⟩ | ⟨-, hlat⟩
    · exact absurd hexec hx
    · exact hlat.command hl
  cases hp : s.phase with
  | idle => exact absurd hp hb
  | exec => exact follows_execPhase T h hp hl
  | load => exact follows_loadPhase T h hp hl
  | freq =>
    have hi := hblock (by simp [hp])
    rw [exec_freq hi hp, exec_freq hi (T.phase ▸ hp)]
    exact follows_next (twin_requestStep T hp)
  | fwait =>
    have hi := hblock (by simp [hp])
    obtain ⟨-, hr⟩ := T.halves (.inr (.inl hp))
    obtain ⟨-, -, -, hmix, -⟩ := T.operands
    rw [exec_fwait hi hp, exec_fwait hi (T.phase ▸ hp), ← hmix, ← hr]
    exact follows_next (twin_responseStep T hp _)
  | store => exact follows_storePhase T (hblock (by simp [hp])) hp
  | finish => exact follows_finishPhase T h hp hl

/-! ### The acceptance makes twins -/

/-- States in which a command begins or is refused, with the same report and, if it begins, the same latches. -/
theorem twin_of_accepted {t t' : State} (hq : t.events = [] ∧ t'.events = []) (ho : SameOperands t t')
    (hp : t.phase = t'.phase) (hstart : t.phase = .idle ∨ t.phase = .exec ∨ t.phase = .load)
    (hcount : t.bcnt = 0 ∧ t'.bcnt = 0 ∧ t.rcnt = 0 ∧ t'.rcnt = 0) (hlen : t.dstLen = 0 ∧ t'.dstLen = 0)
    (hrep : t.err = t'.err ∧ t.errcode = t'.errcode ∧ t.errinfo = t'.errinfo ∧ t.fcode = t'.fcode)
    (hl : t.phase ≠ .idle → t.latch = t'.latch) : Twin t t' := by
  obtain ⟨hb, hb', hr, hr'⟩ := hcount
  obtain ⟨he, hcode, hinfo, hf⟩ := hrep
  exact {
    quiet := hq, operands := ho, phase := hp, bcnt := hb.trans hb'.symm, rcnt := hr.trans hr'.symm
    err := he, errcode := hcode, errinfo := hinfo, fcode := hf, dstLen := hlen.1.trans hlen.2.symm, latch := hl
    halves := fun h => by rcases hstart with hs | hs | hs <;> simp [hs] at h
    stored := fun _ => by rw [hb]; exact sameBytes_zero _ _ _
    result := fun _ => by rw [hlen.1]; exact sameBytes_zero _ _ _ }

section
variable {s s' : State} (hq : s.events = [] ∧ s'.events = []) (ho : SameOperands s s')
include hq ho

theorem twin_rejected (i : Instr) (e : ErrorKind) (info : Word) :
    Twin (raise e info (beginCommand i s)) (raise e info (beginCommand i s')) :=
  twin_of_accepted hq ho rfl (.inl rfl) ⟨rfl, rfl, rfl, rfl⟩ ⟨rfl, rfl⟩ ⟨rfl, rfl, rfl, rfl⟩ (absurd rfl)

theorem twin_enterExec (i : Instr) : Twin (enterExec (beginCommand i s)) (enterExec (beginCommand i s')) := by
  have ⟨_, hn, hn2, _⟩ := ho
  exact twin_of_accepted hq ho rfl (.inr (.inl rfl)) ⟨rfl, rfl, rfl, rfl⟩ ⟨rfl, rfl⟩ ⟨rfl, rfl, rfl, rfl⟩
    fun _ => by simp [hn, hn2]

theorem twin_enterLoad (i : Instr) (reff : Word) (m : Byte) (nb : BitVec 8) :
    Twin (enterLoad reff m nb (beginCommand i s)) (enterLoad reff m nb (beginCommand i s')) := by
  have ⟨_, hn, hn2, _⟩ := ho
  exact twin_of_accepted hq ho rfl (.inr (.inr rfl)) ⟨rfl, rfl, rfl, rfl⟩ ⟨rfl, rfl⟩ ⟨rfl, rfl, rfl, rfl⟩
    fun _ => by simp [hn, hn2]

theorem twin_softReset : Twin (softReset (acceptClear s)) (softReset (acceptClear s')) := by
  have ⟨_, _, _, hmix, _⟩ := ho
  have hops : SameOperands (softReset (acceptClear s)) (softReset (acceptClear s')) :=
    ⟨rfl, rfl, rfl, hmix, by simp, by simp⟩
  exact twin_of_accepted hq hops rfl (.inl rfl) ⟨rfl, rfl, rfl, rfl⟩ ⟨rfl, rfl⟩ ⟨rfl, rfl, rfl, rfl⟩ (absurd rfl)

/-- The acceptance of a command on the same operands: the checks fall out alike, and twins come of it. -/
theorem follows_exec_idle (i : Instr) (hp : s.phase = .idle) (hp' : s'.phase = .idle) :
    Follows (exec i s) (exec i s') := by
  have ⟨hr, hn, hn2, _⟩ := ho
  cases i <;> simp only [exec, execXor, execRound, execFlip, execPad, execUnpad, execEnc, execDec, execRst, hp, hp',
    acceptXor, acceptRound, acceptFlip, acceptPad, acceptUnpad, acceptEnc, acceptDec, ← hr, ← hn, ← hn2] <;>
    apply follows_next
  case rst => exact twin_softReset hq ho
  case pad | unpad =>
    split_ifs
    exacts [twin_rejected hq ho .., twin_enterExec hq ho _]
  case xor | flip =>
    split_ifs
    exacts [twin_rejected hq ho .., twin_rejected hq ho .., twin_enterExec hq ho _]
  case round =>
    split_ifs
    exacts [twin_rejected hq ho .., twin_enterLoad hq ho ..]
  case enc =>
    split_ifs
    exacts [twin_rejected hq ho .., twin_rejected hq ho .., twin_enterLoad hq ho ..]
  case dec =>
    split_ifs
    exacts [twin_rejected hq ho .., twin_rejected hq ho .., twin_rejected hq ho .., twin_enterLoad hq ho ..]

end

/-! ### Every step and every run keeps twins -/

/-- The command in progress is one, by the checks its acceptance made. -/
theorem PositionOk.exists_command {s : State} (h : PositionOk s) (hb : s.phase ≠ .idle) :
    ∃ i, latchedCommand s = some i := by
  cases hl : latchedCommand s with
  | some i => exact ⟨i, rfl⟩
  | none =>
    have hlat := h.latchesOk hb
    simp [ExecLatchesOk, BlockLatchesOk, hl] at hlat

theorem turn_idle {s : State} (hp : s.phase = .idle) : turn s = .next s := by
  simp only [turn, hp]

/-- A unit that does not answer of itself leaves the request unanswered (R272). -/
theorem turn_silent {s : State} (hp : s.phase = .fwait) (ha : s.mix.answering = false) : turn s = .next s := by
  simp [turn, hp, ha]

/-- A turn of the engine keeps twins, and the place of the sequencer. -/
theorem turn_twin {s s' t : State} (T : Twin s s') (h : PositionOk s) (hturn : turn s = .next t) :
    PositionOk t ∧ ∃ t', turn s' = .next t' ∧ Twin t t' := by
  obtain ⟨-, -, -, hmix, -⟩ := T.operands
  by_cases hb : s.phase = .idle
  · rw [turn_idle hb] at hturn
    cases hturn
    exact ⟨h, s', turn_idle (T.phase ▸ hb), T⟩
  by_cases hw : s.phase = .fwait ∧ s.mix.answering = false
  · obtain ⟨hp, ha⟩ := hw
    rw [turn_silent hp ha] at hturn
    cases hturn
    exact ⟨h, s', turn_silent (T.phase ▸ hp) (hmix ▸ ha), T⟩
  · obtain ⟨i, hi⟩ := h.exists_command hb
    have hd := latchedCommand_eq_some.mp hi
    have ha : s.phase = .fwait → s.mix.answering = true := by simpa using hw
    rw [turn_runs hb ha hd] at hturn
    rw [turn_runs (T.phase ▸ hb) (T.phase ▸ hmix ▸ ha) (T.latch hb ▸ hd)]
    exact ⟨runs_positionOk h (exec_busy hb hturn), follows_exec T h hb hi t hturn⟩

theorem stepMany_succ_next {k : Nat} {s t : State} (h : stepMany (k + 1) s = .next t) :
    ∃ u, step s = .next u ∧ stepMany k u = .next t := by
  rw [stepMany] at h
  split at h
  · exact ⟨_, ‹_›, h⟩
  all_goals cases h

theorem stepMany_succ_of_step {k : Nat} {s u : State} (h : step s = .next u) :
    stepMany (k + 1) s = stepMany k u := by rw [stepMany, h]

/-- A run of the undisturbed machine keeps twins. -/
theorem stepMany_twin {k : Nat} {s s' t : State} (T : Twin s s') (h : PositionOk s)
    (hrun : stepMany k s = .next t) : ∃ t', stepMany k s' = .next t' ∧ Twin t t' := by
  induction k generalizing s s' with
  | zero =>
    cases hrun
    exact ⟨s', rfl, T⟩
  | succ k ih =>
    obtain ⟨u, hu, hrun⟩ := stepMany_succ_next hrun
    rw [step_turn T.quiet.1] at hu
    obtain ⟨hpos, u', hu', Tu⟩ := turn_twin T h hu
    rw [stepMany_succ_of_step ((step_turn T.quiet.2).trans hu')]
    exact ih Tu hpos hrun

/-- `s` when the port has answered the write of a command and nothing more is to come. -/
def submitted (s : State) : State := reply .ok { s with events := [] }

/-- The first step of a submitted command is its acceptance (R30, R176). -/
theorem step_submit {i : Instr} {s : State} (hp : s.phase = .idle) :
    step (submit (encode i) s) = exec i (submitted s) := by
  rw [step_commandWrite (s := submit (encode i) s) (w := encode i) (rest := []) hp rfl, startCommand, decode_encode]
  rfl

/-- Settles O24: the acceptance makes twins of the two states, every later step keeps them so, and twins that are idle
have the same outcome. -/
theorem outcomeDependsOnOperandsOnly : Obligations.OutcomeDependsOnOperandsOnly := by
  intro i s s' t k hp hp' hops hrun hidle
  obtain ⟨u, hu, hrun⟩ := stepMany_succ_next hrun
  rw [step_submit hp] at hu
  obtain ⟨u', hu', T⟩ :=
    follows_exec_idle (s := submitted s) (s' := submitted s') ⟨rfl, rfl⟩ hops i hp hp' u hu
  obtain ⟨t', ht', Tt⟩ := stepMany_twin T (exec_idle_positionOk (s := submitted s) hp hu) hrun
  refine ⟨t', ?_, Tt.phase ▸ hidle, Tt.sameOutcome hidle⟩
  rw [stepMany_succ_of_step ((step_submit hp').trans hu'), ht']

end Sys2Proof.Machine
end

section
/-! What each event can do, and what no event but a hard reset does: leave the arcs of the sequencer, touch the operands
of a command in progress, forget an error (R25, R26, R70, R184, R238). -/

namespace Sys2Proof.Machine

/-! ### The one step of each event -/

theorem step_event {s : State} {e : Event} {rest : List Event} (he : s.events = e :: rest) :
    step s = takeEvent e { s with events := rest } := by
  simp only [step, nextStep, he]

/-- Only the word access at offset 8 reaches `CMD` (R27, R62). -/
theorem addr_of_target_cmd {addr : BitVec 14} {size : Size} (h : target addr size = some (.reg .cmd)) :
    addr = 0x8 ∧ size = .word := by
  have hbuf : ∀ a, some (bufTarget a) ≠ some (.reg .cmd) := by
    intro a ha
    simp only [bufTarget, Option.some.injEq] at ha
    split_ifs at ha
  simp only [target] at h
  cases size with
  | byte =>
    simp only at h
    split_ifs at h
    exact absurd h (hbuf _)
  | word =>
    simp only at h
    split_ifs at h with h4 hreg
    · refine ⟨BitVec.eq_of_toNat_eq ?_, rfl⟩
      have h2 : addr.toNat / 4 = 2 := by
        generalize addr.toNat / 4 = n at h
        unfold regAt at h
        split at h <;> simp at h ⊢
      simp only [BitVec.reduceToNat]
      omega
    · exact absurd h (hbuf _)

/-- A write yields a command word only as the word written to `CMD` while idle (R30). -/
theorem hostWrite_command {addr : BitVec 14} {data : WriteData} {s s' : State} {w : Word}
    (h : hostWrite addr data s = (s', some w)) :
    addr = 0x8 ∧ data = .word w ∧ s.phase = .idle ∧ s' = reply .ok s := by
  unfold hostWrite at h
  split at h
  · simp at h
  · simp at h
  · rename_i t _ ht
    split_ifs at h with hb
    · simp at h
    · split at h
      · obtain ⟨haddr, hsize⟩ := addr_of_target_cmd ht
        cases data with
        | byte v => cases hsize
        | word v =>
          cases h
          exact ⟨haddr, rfl, busy_eq_false.mp (by simpa using hb), rfl⟩
      · simp at h
      · simp at h

/-- What a step can do that answers a next state, by the event it takes. `s` is the state with the event taken off. -/
inductive Acts (s : State) : Option Event → State → Prop where
  /-- nobody moves -/
  | stays (e : Option Event) : Acts s e s
  /-- a step of the command in progress -/
  | runs (e : Option Event) (t : State) : Runs s t → Acts s e t
  /-- a host read -/
  | reads (addr : BitVec 14) (size : Size) : Acts s (some (.read addr size)) (hostRead addr size s)
  /-- the pseudo-instruction `wait` -/
  | waits : Acts s (some .wait) (waitStep s)
  /-- a host write that is no command -/
  | writes (addr : BitVec 14) (data : WriteData) (t : State) : WriteDoes s (t, none) →
      Acts s (some (.write addr data)) t
  /-- the acceptance of a command -/
  | accepts (i : Instr) (t : State) : s.phase = .idle → exec i (reply .ok s) = .next t →
      Acts s (some (commandWrite (encode i))) t
  /-- an illegal command word -/
  | illegal (w : Word) : s.phase = .idle →
      Acts s (some (commandWrite w)) (raise .illegalCommand w (acceptClear (reply .ok s)))
  /-- another mixing-function unit -/
  | attaches (u : MixUnit) : s.phase = .idle → Acts s (some (.attach u)) { s with mix := u }
  /-- a hard reset -/
  | resets : Acts s (some .hardReset) (hardReset s)

theorem runLatched_runs {s t : State} (hp : s.phase ≠ .idle) (h : runLatched s = .next t) : Runs s t := by
  unfold runLatched at h
  split at h
  · exact exec_busy hp h
  · cases h

theorem turn_acts {s t : State} (e : Option Event) (h : turn s = .next t) : Acts s e t := by
  unfold turn at h
  split at h
  case h_1 => cases h; exact .stays e
  case h_2 hp =>
    split at h
    · exact .runs e t (runLatched_runs (by simp [hp]) h)
    · cases h; exact .stays e
  all_goals rename_i hp; exact .runs e t (runLatched_runs (by simp [hp]) h)

theorem takeResponse_acts {m : MixResponse} {s t : State} (e : Option Event) (h : takeResponse m s = .next t) :
    Acts s e t := by
  unfold takeResponse at h
  split at h
  case h_1 hp =>
    split at h
    · exact .runs e t (runLatched_runs (by simp [hp]) h)
    · cases h
  all_goals cases h; exact .stays e

theorem startCommand_acts {w : Word} {s t : State} (hp : s.phase = .idle)
    (h : startCommand w (reply .ok s) = .next t) : Acts s (some (commandWrite w)) t := by
  unfold startCommand at h
  split at h
  · rename_i i hd
    rw [eq_encode_of_decode hd]
    exact .accepts i t hp h
  · cases h
    exact .illegal w hp

theorem takeEvent_acts {e : Event} {s t : State} (h : takeEvent e s = .next t) : Acts s (some e) t := by
  cases e with
  | read addr size => cases h; exact .reads addr size
  | wait => cases h; exact .waits
  | turn => exact turn_acts _ h
  | response m => exact takeResponse_acts _ h
  | hardReset => cases h; exact .resets
  | attach u =>
    simp only [takeEvent, attachUnit] at h
    split_ifs at h with hb
    cases h
    exact .attaches u (busy_eq_false.mp (by simpa using hb))
  | write addr data =>
    simp only [takeEvent] at h
    split at h
    · rename_i s' hw
      cases h
      exact .writes addr data t (hw ▸ hostWrite_does addr data s)
    · rename_i s' w hw
      obtain ⟨rfl, rfl, hp, rfl⟩ := hostWrite_command hw
      exact startCommand_acts hp h

/-- The inversion of `step` by the event it takes. -/
theorem step_acts {s t : State} (h : step s = .next t) :
    Acts { s with events := s.events.tail } s.events.head? t := by
  cases he : s.events with
  | nil =>
    rw [step_turn he] at h
    have hs : { s with events := [] } = s := by rw [← he]
    exact hs.symm ▸ turn_acts _ h
  | cons e rest =>
    rw [step_event he] at h
    exact takeEvent_acts h

end Sys2Proof.Machine
end

section
/-! The statements about every step, read off `Acts`, and those about single accesses of the host. -/

namespace Sys2Proof.Machine

/-! ### What the host's accesses leave -/

/-- A host read, alone or as part of `wait`, changes only what the environment sees and does (R69). -/
theorem waitStep_frame (s : State) :
    ∃ es answer d, waitStep s = { s with events := es, replies := answer :: s.replies, draws := d } := by
  obtain ⟨answer, d, h⟩ := hostRead_frame 0x4 .word s
  exact ⟨_, answer, d, by rw [waitStep, h]⟩

/-- No host write that is no command moves the sequencer or touches `ESTK`. -/
theorem writeDoes_phase_estk {s t : State} (h : WriteDoes s (t, none)) : t.phase = s.phase ∧ t.estk = s.estk := by
  cases h with
  | error | dropped => exact ⟨rfl, rfl⟩
  | register r v _ => cases r <;> exact ⟨rfl, rfl⟩
  | buffer b i v _ _ _ => cases b <;> exact ⟨rfl, rfl⟩

/-- While busy a host write is answered and at most sets `WRBUSY` (R66, R70). -/
theorem writeDoes_busy {s t : State} (hb : s.phase ≠ .idle) (h : WriteDoes s (t, none)) :
    t = { s with replies := t.replies, wrbusy := t.wrbusy } := by
  have hbusy := busy_eq_true.mpr hb
  cases h with
  | error | dropped => rfl
  | register _ _ hn | buffer _ _ _ hn => simp [hbusy] at hn

/-! ### The arcs of the sequencer (R184) -/

theorem phaseArc_of_eq {p q : Phase} (h : q = p) : PhaseArc p q := by
  subst h
  cases q <;> simp [PhaseArc]

theorem runs_phaseArc {s t : State} (h : Runs s t) : PhaseArc s.phase t.phase := by
  cases h with
  | result _ hp | load _ _ hp | request hp | finish _ hp => simp [hp, PhaseArc]
  | error _ _ hp => rcases hp with hp | hp <;> simp [hp, PhaseArc]
  | store _ hp => dsimp only; split <;> simp [hp, PhaseArc]
  | response hp =>
    cases mixFn s.mix s.right with
    | fail code => simp [hp, PhaseArc]
    | ok y => rw [responseStep_ok]; dsimp only; split <;> simp [hp, PhaseArc]

theorem accepts_phaseArc {i : Instr} {s t : State} (h : Accepts i s t) : PhaseArc .idle t.phase := by
  cases h <;> simp [PhaseArc]

theorem acts_phaseArc {s t : State} {e : Option Event} (h : Acts s e t) (hr : e ≠ some .hardReset) :
    PhaseArc s.phase t.phase := by
  cases h with
  | stays => exact phaseArc_of_eq rfl
  | runs _ _ h => exact runs_phaseArc h
  | reads addr size =>
    obtain ⟨_, _, h⟩ := hostRead_frame addr size s
    exact phaseArc_of_eq (by rw [h])
  | waits =>
    obtain ⟨_, _, _, h⟩ := waitStep_frame s
    exact phaseArc_of_eq (by rw [h])
  | writes _ _ _ hw => exact phaseArc_of_eq (writeDoes_phase_estk hw).1
  | accepts i _ hp h =>
    obtain ⟨t', ht', ha⟩ := exec_idle i (s := reply .ok s) hp
    cases ht'.symm.trans h
    exact hp ▸ accepts_phaseArc ha
  | illegal => exact phaseArc_of_eq (by simp [*])
  | attaches => exact phaseArc_of_eq rfl
  | resets => exact absurd rfl hr

/-- Settles O49: whatever is no hard reset keeps the phase or is a step of the sequencer or an acceptance. -/
theorem phaseMovesAlongTheArcs : Obligations.PhaseMovesAlongTheArcs :=
  fun s _ hr h => acts_phaseArc (s := { s with events := s.events.tail }) (step_acts h) hr

/-! ### The operands of a command in progress (R42, R43, R70, R124) -/

/-- `t` holds the operands, the configuration, the latches and the unit of `s`. -/
def OperandsKept (s t : State) : Prop :=
  t.ibuf = s.ibuf ∧ t.xbuf = s.xbuf ∧ t.rounds = s.rounds ∧ t.srcLen = s.srcLen ∧
    t.src2Len = s.src2Len ∧ t.ie = s.ie ∧ t.latch = s.latch ∧ t.mix = s.mix ∧ t.resets = s.resets

theorem operandsKept_refl (s : State) : OperandsKept s s := ⟨rfl, rfl, rfl, rfl, rfl, rfl, rfl, rfl, rfl⟩

theorem runs_operandsKept {s t : State} (h : Runs s t) : OperandsKept s t := by
  cases h with
  | response _ => cases mixFn s.mix s.right <;> exact operandsKept_refl s
  | result | error | load | request | store | finish => exact operandsKept_refl s

theorem acts_operandsKept {s t : State} {e : Option Event} (h : Acts s e t) (hb : s.phase ≠ .idle)
    (hr : e ≠ some .hardReset) : OperandsKept s t := by
  cases h with
  | stays => exact operandsKept_refl s
  | runs _ _ h => exact runs_operandsKept h
  | reads addr size =>
    obtain ⟨_, _, h⟩ := hostRead_frame addr size s
    rw [h]; exact operandsKept_refl s
  | waits =>
    obtain ⟨_, _, _, h⟩ := waitStep_frame s
    rw [h]; exact operandsKept_refl s
  | writes _ _ _ hw => rw [writeDoes_busy hb hw]; exact operandsKept_refl s
  | accepts _ _ hp | illegal _ hp | attaches _ hp => exact absurd hp hb
  | resets => exact absurd rfl hr

/-- Settles O50: while busy a host write is dropped, an acceptance or another unit is out of the question, and the steps
of the sequencer write neither the operands nor the latches. -/
theorem operandsAreFrozenWhileBusy : Obligations.OperandsAreFrozenWhileBusy :=
  fun s _ hb hr h => acts_operandsKept (s := { s with events := s.events.tail }) (step_acts h) hb hr

/-! ### The remembered error (R26, R238) -/

theorem runs_estk {s t : State} (h : Runs s t) (hs : s.estk = true) : t.estk = true := by
  cases h with
  | error => rfl
  | response _ =>
    cases mixFn s.mix s.right with
    | ok y => exact hs
    | fail code => rfl
  | result | load | request | store | finish => exact hs

theorem accepts_estk {i : Instr} {s t : State} (h : Accepts i s t) (hi : i ≠ .rst) (hs : s.estk = true) :
    t.estk = true := by
  cases h with
  | error => rfl
  | exec | load => exact hs
  | reset hrst => exact absurd hrst hi

theorem acts_estk {s t : State} {e : Option Event} (h : Acts s e t) (hs : s.estk = true)
    (hr : e ≠ some .hardReset) (hrst : ¬ (s.phase = .idle ∧ e = some (commandWrite (encode .rst)))) :
    t.estk = true := by
  cases h with
  | stays | attaches => exact hs
  | runs _ _ h => exact runs_estk h hs
  | reads addr size =>
    obtain ⟨_, _, h⟩ := hostRead_frame addr size s
    rw [h]; exact hs
  | waits =>
    obtain ⟨_, _, _, h⟩ := waitStep_frame s
    rw [h]; exact hs
  | writes _ _ _ hw => exact (writeDoes_phase_estk hw).2.trans hs
  | accepts i _ hp h =>
    obtain ⟨t', ht', ha⟩ := exec_idle i (s := reply .ok s) hp
    cases ht'.symm.trans h
    exact accepts_estk ha (fun hi => hrst ⟨hp, by rw [hi]⟩) hs
  | illegal => rfl
  | resets => exact absurd rfl hr

/-- Settles O51: of all moves only a hard reset and the soft reset of `RST` clear `ESTK`. -/
theorem errorIsRememberedUntilReset : Obligations.ErrorIsRememberedUntilReset :=
  fun s _ hs h hr hrst => acts_estk (s := { s with events := s.events.tail }) (step_acts h) hs hr hrst

/-! ### Single accesses of the host -/

/-- Settles O3: the write reaches `CMD` and its word is the command's. -/
theorem writtenCommandRuns : Obligations.WrittenCommandRuns := by
  intro s w i rest hp he hd
  rw [step_commandWrite hp he, startCommand, hd]
  rfl

/-- A word read of a register answers its value and changes nothing else (R63, R69). -/
theorem step_registerRead {s : State} {r : Reg} {rest : List Event}
    (he : s.events = .read (regAddr r) .word :: rest) :
    step s = .next { s with events := rest, replies := .word (regRead r s) :: s.replies } := by
  simp only [step_event he, takeEvent, hostRead, target_regAddr]
  cases r <;> rfl

/-- A word write of a register other than `CMD` while idle stores what the register stores (R64). -/
theorem step_registerWrite {s : State} {r : Reg} {v : Word} {rest : List Event} (hr : r ≠ .cmd)
    (hp : s.phase = .idle) (he : s.events = .write (regAddr r) (.word v) :: rest) :
    step s = .next { regWrite r v s with events := rest, replies := .ok :: s.replies } := by
  have hb : busy { s with events := rest } = false := busy_eq_false.mpr hp
  rw [step_event he, takeEvent, hostWrite, writeSize, target_regAddr]
  cases r
  case cmd => exact absurd rfl hr
  all_goals simp only [hb]; rfl

/-- Bit `k` of `STATUS`, the flags from the least significant end (R29). -/
theorem statusWord_getLsbD (s : State) (k : Nat) :
    (statusWord s).getLsbD k =
      if k < 8 then [busy s, s.done, s.err, s.estk, s.wrbusy].getD k false
      else if k < 16 then s.errcode.getLsbD (k - 8) else false := by
  by_cases hk : k < 8
  · simp only [statusWord, BitVec.getLsbD_cast, BitVec.getLsbD_append, hk]
    interval_cases k <;> simp
  · simp only [statusWord, BitVec.getLsbD_cast, BitVec.getLsbD_append]
    grind

/-- The fields of `STATUS` of more than one bit (R29). -/
theorem statusWord_fields (s : State) :
    (statusWord s).extractLsb' 5 3 = 0 ∧ (statusWord s).extractLsb' 8 8 = s.errcode ∧
      (statusWord s).extractLsb' 16 16 = 0 := by
  refine ⟨?_, ?_, ?_⟩ <;>
  · apply BitVec.eq_of_getLsbD_eq
    intro k hk
    simp only [BitVec.getLsbD_extractLsb', statusWord_getLsbD]
    grind

/-- Settles O38: the read answers `statusWord`, whose bits are the flags. -/
theorem statusReadShowsTheFlags : Obligations.StatusReadShowsTheFlags := by
  intro s rest he
  have hflag := statusWord_getLsbD s
  refine ⟨statusWord s, step_registerRead (r := .status) he, ?_, hflag 1, hflag 2, hflag 3, hflag 4,
    statusWord_fields s⟩
  rw [hflag 0]
  exact busy_eq_true

/-- Settles O39: each of the offsets is that of a register, and the state beside it is what its write leaves. -/
theorem registerWritesWhileIdle : Obligations.RegisterWritesWhileIdle := by
  intro s t addr v rest hmem hp he
  suffices h : ∃ r, r ≠ .cmd ∧ addr = regAddr r ∧ t = regWrite r v s by
    obtain ⟨r, hr, rfl, rfl⟩ := h
    exact step_registerWrite hr hp he
  simp only [List.mem_cons, Prod.mk.injEq, List.not_mem_nil, or_false] at hmem
  rcases hmem with ⟨rfl, rfl⟩ | ⟨rfl, rfl⟩ | ⟨rfl, rfl⟩ | ⟨rfl, rfl⟩ | ⟨rfl, rfl⟩ | ⟨rfl, rfl⟩ | ⟨rfl, rfl⟩ |
    ⟨rfl, rfl⟩ | ⟨rfl, rfl⟩ | ⟨rfl, rfl⟩ | ⟨rfl, rfl⟩
  · exact ⟨.ctrl, by decide, rfl, rfl⟩
  · exact ⟨.rounds, by decide, rfl, rfl⟩
  · exact ⟨.srcLen, by decide, rfl, rfl⟩
  · exact ⟨.src2Len, by decide, rfl, rfl⟩
  · exact ⟨.dstLen, by decide, rfl, rfl⟩
  · exact ⟨.rcnt, by decide, rfl, rfl⟩
  · exact ⟨.bcnt, by decide, rfl, rfl⟩
  · exact ⟨.errinfo, by decide, rfl, rfl⟩
  · exact ⟨.ferr, by decide, rfl, rfl⟩
  · exact ⟨.id, by decide, rfl, rfl⟩
  · exact ⟨.capr, by decide, rfl, rfl⟩

/-- Settles O44, by evaluation of the one state it is about. -/
theorem resetValues : Obligations.ResetValues := by
  unfold Obligations.ResetValues
  decide

end Sys2Proof.Machine
end

section
/-! No fault under the invariant (R73, R174, R184): while a command is in progress its step answers a next state, since
the phase is one of its own and no buffer index reaches `CAP`. -/

namespace Sys2Proof.Machine

/-! ### The lengths of what an `EXEC` step writes -/

/-- `len(xor(a, b)) = len(a)` (R110). -/
theorem xorSeq_length {a b c : List Byte} (h : xorSeq a b = some c) : c.length = a.length := by
  unfold xorSeq at h
  split at h
  · cases h; simp [*]
  · cases h

@[simp] theorem operandA_length (s : State) : (operandA s).length = s.latch.n.toNat := bufSlice_length ..

@[simp] theorem storedOutput_length (s : State) : (storedOutput s).length = s.latch.n.toNat := bufSlice_length ..

/-! ### The step of a command in progress answers a next state -/

/-- A result that fits the buffer is written (R177). -/
theorem putResult_progress {v : List Byte} (s : State) (h : v.length ≤ 4096) : ∃ t, putResult v s = .next t :=
  ⟨_, putResult_le s h⟩

/-- `EXEC`: the checks of acceptance let the result fit the buffer. -/
theorem exec_progress_execPhase {i : Instr} {s : State} (h : ExecLatchesOk s) (hp : s.phase = .exec)
    (hl : latchedCommand s = some i) : ∃ t, exec i s = .next t := by
  simp only [ExecLatchesOk, hl, cap_eq] at h
  cases i with
  | xor =>
    simp only [exec, execXor, hp]
    split
    · rename_i c hc
      exact putResult_progress s (by rw [xorSeq_length hc, operandA_length]; exact h.2)
    · exact ⟨_, rfl⟩
  | flip =>
    simp only [exec, execFlip, hp]
    split
    · rename_i c hc
      exact putResult_progress s (by rw [flipSeq_length hc, operandA_length]; exact h.2)
    · exact ⟨_, rfl⟩
  | pad =>
    simp only [exec, execPad, hp]
    exact putResult_progress s (by rw [pad_length, operandA_length]; omega)
  | unpad =>
    simp only [exec, execUnpad, hp, unpad_eq_unpadV, withinBuffer_le _ h]
    split
    · rename_i v hv
      have hle := unpadV_length_le hv
      rw [operandA_length] at hle
      exact putResult_progress s (hle.trans h)
    · exact ⟨_, rfl⟩
  | round | enc | dec | rst => exact h.elim

/-- `LOAD`: the block lies in the buffer (R174, R178). -/
theorem exec_progress_load {i : Instr} {s : State} (hi : i = .round ∨ i = .enc ∨ i = .dec) (hp : s.phase = .load)
    (hcap : (s.bcnt.toNat + 1) * 32 ≤ 4096) : ∃ t, exec i s = .next t := by
  rcases hi with rfl | rfl | rfl <;> simp only [exec, execRound, execEnc, execDec, hp] <;>
    exact ⟨_, loadStep_le _ s hcap⟩

/-- `STORE`: the block lies in the buffer (R174, R181). -/
theorem exec_progress_store {i : Instr} {s : State} (hi : i = .round ∨ i = .enc ∨ i = .dec) (hp : s.phase = .store)
    (hcap : (s.bcnt.toNat + 1) * 32 ≤ 4096) : ∃ t, exec i s = .next t := by
  rcases hi with rfl | rfl | rfl <;> simp only [exec, execRound, execEnc, execDec, hp] <;>
    exact ⟨_, storeStep_le _ s hcap⟩

/-- The `FINISH` step of `DEC` reads back a sequence that fits the buffer (R182). -/
theorem finishDec_progress {s : State} (h : s.latch.n.toNat ≤ 4096) : ∃ t, finishDec s = .next t := by
  rw [finishDec, withinBuffer_le _ h]
  split <;> exact ⟨_, rfl⟩

/-- `FINISH`: only `DEC` reads a buffer there, as far as its checks let it. -/
theorem exec_progress_finish {i : Instr} {s : State} (h : BlockLatchesOk s) (hp : s.phase = .finish)
    (hl : latchedCommand s = some i) : ∃ t, exec i s = .next t := by
  rcases h.command hl with rfl | rfl | rfl
  · simp only [exec, execRound, hp]
    exact ⟨_, rfl⟩
  · simp only [exec, execEnc, hp]
    exact ⟨_, rfl⟩
  · simp only [BlockLatchesOk, hl] at h
    obtain ⟨-, -, hn, -⟩ := h
    simp only [exec, execDec, hp]
    exact finishDec_progress hn

/-- The block in work is one of at most `CAP/B`, so it ends below `CAP` (R73, R174). -/
theorem BlockLatchesOk.block_in_buffer {s : State} (h : BlockLatchesOk s) (hb : s.bcnt.toNat < s.latch.nb.toNat) :
    (s.bcnt.toNat + 1) * 32 ≤ 4096 := by
  have := h.bounds.1
  omega

/-- While a command is in progress, in a place the rules allow, its step answers a next state (R184). -/
theorem exec_progress {i : Instr} {s : State} (h : PositionOk s) (hb : s.phase ≠ .idle)
    (hl : latchedCommand s = some i) : ∃ t, exec i s = .next t := by
  cases hp : s.phase <;> simp only [PositionOk, hp] at h
  case idle => exact absurd hp hb
  all_goals obtain ⟨-, hlat, hcount⟩ := h
  case exec => exact exec_progress_execPhase hlat hp hl
  case load => exact exec_progress_load (hlat.command hl) hp (hlat.block_in_buffer hcount.1)
  case freq => exact ⟨_, exec_freq (hlat.command hl) hp⟩
  case fwait => exact ⟨_, exec_fwait (hlat.command hl) hp⟩
  case store => exact exec_progress_store (hlat.command hl) hp (hlat.block_in_buffer hcount.1)
  case finish => exact exec_progress_finish hlat hp hl

theorem runLatched_progress {s : State} (h : PositionOk s) (hb : s.phase ≠ .idle) : ∃ t, runLatched s = .next t := by
  obtain ⟨i, hl⟩ := h.exists_command hb
  rw [runLatched, latchedCommand_eq_some.mp hl]
  exact exec_progress h hb hl

/-- A turn of the engine answers a next state (R186). -/
theorem turn_progress {s : State} (h : PositionOk s) : ∃ t, turn s = .next t := by
  unfold turn
  split
  case h_1 => exact ⟨s, rfl⟩
  case h_2 hp =>
    split
    · exact runLatched_progress h (by simp [hp])
    · exact ⟨s, rfl⟩
  all_goals rename_i hp; exact runLatched_progress h (by simp [hp])

/-! ### No event leads to a fault -/

/-- A word written to `CMD` while idle is accepted or refused in a next state (R176, R231). -/
theorem startCommand_progress (w : Word) {s : State} (hp : s.phase = .idle) : ∃ t, startCommand w s = .next t := by
  unfold startCommand
  split
  · rename_i i _
    obtain ⟨t, ht, -⟩ := exec_idle i hp
    exact ⟨t, ht⟩
  · exact ⟨_, rfl⟩

theorem takeResponse_ne_fault {m : MixResponse} {s : State} (h : PositionOk s) (f : Fault) :
    takeResponse m s ≠ .fault f := by
  unfold takeResponse
  split
  case h_1 hp =>
    obtain ⟨t, ht⟩ := runLatched_progress h (by simp [hp])
    split <;> simp [ht]
  all_goals simp

theorem takeWrite_ne_fault (addr : BitVec 14) (data : WriteData) (s : State) (f : Fault) :
    takeEvent (.write addr data) s ≠ .fault f := by
  simp only [takeEvent]
  split
  · simp
  · rename_i w hw
    obtain ⟨-, -, hp, rfl⟩ := hostWrite_command hw
    obtain ⟨t, ht⟩ := startCommand_progress w (s := reply .ok s) hp
    simp [ht]

theorem takeEvent_ne_fault (e : Event) {s : State} (h : PositionOk s) (f : Fault) : takeEvent e s ≠ .fault f := by
  cases e with
  | read | wait | hardReset => simp [takeEvent]
  | write addr data => exact takeWrite_ne_fault addr data s f
  | response m => exact takeResponse_ne_fault h f
  | attach u =>
    simp only [takeEvent, attachUnit]
    split <;> simp
  | turn =>
    obtain ⟨t, ht⟩ := turn_progress h
    simp [takeEvent, ht]

/-- Settles O48: under the invariant a turn answers a next state, and every event does or is refused. -/
theorem noFaultUnderTheInvariant : Obligations.NoFaultUnderTheInvariant := by
  intro s f h
  cases he : s.events with
  | nil =>
    obtain ⟨t, ht⟩ := turn_progress h.position
    rw [step_turn he, ht]
    simp
  | cons e rest =>
    rw [step_event he]
    exact takeEvent_ne_fault e (s := { s with events := rest }) h.position f

end Sys2Proof.Machine
end

section
/-! The host port, access by access: which accesses are refused, what a busy machine drops, and the byte order of the
buffers; and the byte order of the port of the mixing function (R61 to R72, R121). -/

namespace Sys2Proof.Machine

/-! ### The legal accesses are those that reach something (R60, R62, R66) -/

/-- There are thirteen registers, one for each word number from 0 on (R27). -/
theorem exists_regAt_iff {n : Nat} : (∃ r, regAt n = some r) ↔ n < 13 := by
  constructor
  · rintro ⟨r, h⟩
    unfold regAt at h
    split at h <;> simp at h ⊢
  · intro h
    interval_cases n <;> exact ⟨_, rfl⟩

theorem legalRead_iff {addr : BitVec 14} {size : Size} : LegalRead addr size ↔ ∃ t, target addr size = some t := by
  cases size with
  | byte =>
    simp only [LegalRead, target]
    split_ifs <;> simp <;> omega
  | word =>
    simp only [LegalRead, target]
    split_ifs with h4 hreg
    · simp [h4]
    · simp only [Option.map_eq_some_iff, exists_comm (α := Target), exists_eq_right', exists_regAt_iff]
      omega
    · simp; omega

/-- What an access reaches lies in `OBUF` from offset 0x3000 on (R60). -/
theorem exists_bufTarget_obuf {a : Nat} : (∃ i, bufTarget a = .buf .obuf i) ↔ 0x3000 ≤ a := by
  unfold bufTarget
  split_ifs <;> simp <;> omega

/-- Below offset 0x1000 an access reaches a register or nothing, from there on a buffer byte (R60). -/
theorem target_region {addr : BitVec 14} {size : Size} {t : Target} (h : target addr size = some t) :
    addr.toNat < 0x1000 ∧ (∃ r, t = .reg r) ∨ 0x1000 ≤ addr.toNat ∧ t = bufTarget addr.toNat := by
  simp only [target] at h
  cases size with
  | byte =>
    simp only at h
    split_ifs at h with hreg
    cases h
    exact .inr ⟨not_lt.mp hreg, rfl⟩
  | word =>
    simp only at h
    split_ifs at h with h4 hreg
    · obtain ⟨r, -, rfl⟩ := Option.map_eq_some_iff.mp h
      exact .inl ⟨hreg, r, rfl⟩
    · cases h
      exact .inr ⟨not_lt.mp hreg, rfl⟩

/-- A legal access is one to `OBUF` exactly from offset 0x3000 on (R60). -/
theorem exists_target_obuf_iff {addr : BitVec 14} {size : Size} {t : Target} (h : target addr size = some t) :
    (∃ i, t = .buf .obuf i) ↔ 0x3000 ≤ addr.toNat := by
  rcases target_region h with ⟨hlt, r, rfl⟩ | ⟨-, rfl⟩
  · simp; omega
  · exact exists_bufTarget_obuf

/-! ### Illegal accesses and dropped writes (R66, R70) -/

/-- An illegal read is answered with `error` (R66). -/
theorem hostRead_illegal {addr : BitVec 14} {size : Size} (h : ¬ LegalRead addr size) (s : State) :
    hostRead addr size s = reply .error s := by
  have hnone : target addr size = none := by simpa [legalRead_iff, Option.eq_none_iff_forall_ne_some] using h
  simp only [hostRead, hnone]

/-- An illegal write, or one to `OBUF`, is answered with `error` (R66). -/
theorem hostWrite_illegal {addr : BitVec 14} {data : WriteData} (h : ¬ LegalWrite addr data) (s : State) :
    hostWrite addr data s = (reply .error s, none) := by
  cases ht : target addr (writeSize data) with
  | none => rw [hostWrite, ht]
  | some t =>
    have hobuf : 0x3000 ≤ addr.toNat := not_lt.mp fun hlt => h ⟨legalRead_iff.mpr ⟨t, ht⟩, hlt⟩
    obtain ⟨i, rfl⟩ := (exists_target_obuf_iff ht).mpr hobuf
    rw [hostWrite, ht]

/-- A legal write while busy is dropped, whatever it reaches (R70). -/
theorem hostWrite_busy {addr : BitVec 14} {data : WriteData} (h : LegalWrite addr data) {s : State}
    (hb : s.phase ≠ .idle) : hostWrite addr data s = (reply .ok { s with wrbusy := true }, none) := by
  obtain ⟨hread, hlt⟩ := h
  obtain ⟨t, ht⟩ := legalRead_iff.mp hread
  have hno : ¬ ∃ i, t = .buf .obuf i := by rw [exists_target_obuf_iff ht]; omega
  unfold hostWrite
  rw [ht]
  split
  case h_1 h => cases h
  case h_2 i h => exact absurd ⟨i, Option.some.inj h⟩ hno
  case h_3 => rw [if_pos (busy_eq_true.mpr hb)]

/-- A read is done in the step that takes it (R67). -/
theorem step_read {s : State} {addr : BitVec 14} {size : Size} {rest : List Event}
    (he : s.events = .read addr size :: rest) : step s = .next (hostRead addr size { s with events := rest }) :=
  step_event he

/-- So is a write that yields no command word (R67). -/
theorem step_write {s t : State} {addr : BitVec 14} {data : WriteData} {rest : List Event}
    (he : s.events = .write addr data :: rest) (hw : hostWrite addr data { s with events := rest } = (t, none)) :
    step s = .next t := by
  rw [step_event he, takeEvent, hw]

/-- Settles O34: what is illegal reaches nothing, or `OBUF` by a write. -/
theorem illegalAccessChangesNothing : Obligations.IllegalAccessChangesNothing := by
  refine ⟨fun s addr size rest he h => ?_, fun s addr data rest he h => ?_⟩
  · rw [step_read he, hostRead_illegal h]
    rfl
  · exact step_write he (hostWrite_illegal h _)

/-- Settles O35: the machine looks at nothing of a legal write but that it is busy. -/
theorem busyWriteIsDropped : Obligations.BusyWriteIsDropped :=
  fun s _ _ rest he h hb => step_write he (hostWrite_busy h (s := { s with events := rest }) hb)

/-- Settles O36, by the frame of a host read. -/
theorem hostReadChangesNothing : Obligations.HostReadChangesNothing := by
  intro s addr size rest he
  obtain ⟨answer, d, hread⟩ := hostRead_frame addr size { s with events := rest }
  exact ⟨_, answer, step_read he, by rw [hread]⟩

/-! ### Reads of the buffers (R63, R65, R71, R72) -/

/-- An offset inside a buffer is that of its byte (R61). -/
theorem eq_bufAddr {b : Buf} {i : Nat} {addr : BitVec 14} (hi : i < 4096) (h : addr.toNat = bufBase b + i) :
    addr = bufAddr b i := BitVec.eq_of_toNat_eq (h.trans (bufAddr_toNat b hi).symm)

/-- The lanes of a word of four bytes are the bytes, the lowest index least significant (R65). -/
theorem wordOfBytes_lane (f : Nat → Byte) {j : Nat} (hj : j < 4) :
    (wordOfBytes (f 0) (f 1) (f 2) (f 3)).extractLsb' (8 * j) 8 = f j := by
  apply BitVec.eq_of_getLsbD_eq
  intro k hk
  simp only [wordOfBytes, BitVec.getLsbD_extractLsb', BitVec.getLsbD_cast, BitVec.getLsbD_append, hk]
  interval_cases j <;> grind

theorem hostWord_lane (b : Buf) (s : State) (k i : Nat) {j : Nat} (hj : j < 4) :
    (hostWord b s k i).extractLsb' (8 * j) 8 = hostByte b s (k + j) (i + j) :=
  wordOfBytes_lane (fun j => hostByte b s (k + j) (i + j)) hj

/-- The host sees every byte of `IBUF` and `XBUF`, at any time (R63). -/
theorem hostByte_operand {b : Buf} (hb : b ≠ .obuf) (s : State) (k i : Nat) : hostByte b s k i = bufByte b s i := by
  simp [hostByte, hb]

theorem obufDefined_iff {s : State} {i : Nat} :
    obufDefined s i = true ↔ s.phase = .idle ∧ i < s.dstLen.toNat := by
  simp [obufDefined, busy_eq_false]

/-- Of `OBUF` the host sees the result, while idle (R71, R72). -/
theorem hostByte_obuf (s : State) (k i : Nat) :
    hostByte .obuf s k i =
      if s.phase = .idle ∧ i < s.dstLen.toNat then bufByte .obuf s i else Config.freeBits 8 k := by
  by_cases h : obufDefined s i = true
  · rw [if_pos (obufDefined_iff.mp h)]
    simp [hostByte, h]
  · rw [if_neg (mt obufDefined_iff.mpr h)]
    simp [hostByte, h]

theorem step_byteRead {s : State} {b : Buf} {i : Nat} {rest : List Event} (hi : i < 4096)
    (he : s.events = .read (bufAddr b i) .byte :: rest) :
    step s = .next { s with
      events := rest, replies := .byte (hostByte b s s.draws i) :: s.replies
      draws := s.draws + if b = .obuf then 1 else 0 } := by
  simp only [step_read he, hostRead, target_bufAddr_byte b hi]
  cases b <;> rfl

theorem step_wordRead {s : State} {b : Buf} {i : Nat} {rest : List Event} (hi : i < 4096) (h4 : i % 4 = 0)
    (he : s.events = .read (bufAddr b i) .word :: rest) :
    step s = .next { s with
      events := rest, replies := .word (hostWord b s s.draws i) :: s.replies
      draws := s.draws + if b = .obuf then 4 else 0 } := by
  simp only [step_read he, hostRead, target_bufAddr_word b hi h4]
  cases b <;> rfl

/-- The two buffers the host writes, by their offsets (R61). -/
theorem operandBuffer_base {b : Buf} {base : Nat} (h : b = .ibuf ∧ base = 0x1000 ∨ b = .xbuf ∧ base = 0x2000) :
    b ≠ .obuf ∧ base = bufBase b := by
  rcases h with ⟨rfl, rfl⟩ | ⟨rfl, rfl⟩ <;> exact ⟨nofun, rfl⟩

/-- Settles O42: the bytes the host sees of `IBUF` and `XBUF` are the stored ones, and no free value is used up. -/
theorem bufferReads : Obligations.BufferReads := by
  intro s b base i addr rest hbase hi haddr
  obtain ⟨hb, rfl⟩ := operandBuffer_base hbase
  obtain rfl := eq_bufAddr hi haddr
  refine ⟨fun he => ?_, fun he h4 => ⟨hostWord b s s.draws i, ?_, fun j hj => ?_⟩⟩
  · simp [step_byteRead hi he, hostByte_operand, hb]
  · simp [step_wordRead hi h4 he, hb]
  · rw [hostWord_lane b s _ i hj, hostByte_operand hb]

/-- Settles O43: each byte the host sees is by itself a byte of the result or a free value. -/
theorem obufReadsShowTheResultOnly : Obligations.ObufReadsShowTheResultOnly := by
  intro s i addr rest hi haddr
  obtain rfl := eq_bufAddr (b := .obuf) hi haddr
  refine ⟨fun he hdef => ?_, fun he hundef => ?_, fun he h4 =>
    ⟨_, step_wordRead hi h4 he, fun j hj => ?_⟩⟩
  · rw [step_byteRead hi he, hostByte_obuf, if_pos hdef]
    rfl
  · rw [step_byteRead hi he, hostByte_obuf, if_neg (not_and_or.mpr (hundef.imp_right not_lt.mpr))]
    rfl
  · rw [hostWord_lane _ s _ i hj, hostByte_obuf]

/-! ### Writes of the buffers (R64, R65) -/

/-- A write of `IBUF` or `XBUF` changes the bytes written and no other byte of a buffer (R64). -/
theorem bufByte_bufWrite {b : Buf} (hb : b ≠ .obuf) (c : Buf) (s : State) (i j : Nat) (v : List Byte) :
    bufByte c (bufWrite b i v s) j =
      if c = b ∧ i ≤ j then (v[j - i]?).getD (bufByte c s j) else bufByte c s j := by
  by_cases hc : c = b
  · subst hc
    have hcells : bufCells c (bufWrite c i v s) = memPutSeq (bufCells c s) i v := by
      cases c <;> simp_all [bufCells, bufWrite]
    have hresets : (bufWrite c i v s).resets = s.resets := by cases c <;> rfl
    rw [bufByte, hcells, hresets, memGet_memPutSeq]
    by_cases hij : i ≤ j
    · simp only [hij, bufByte]
      cases v[j - i]? <;> simp
    · simp [hij, bufByte]
  · rw [if_neg (by simp [hc])]
    refine bufByte_congr ?_ ?_ j <;> cases b <;> cases c <;> simp_all [bufCells, bufWrite]

/-- A word is written lane by lane, the least significant first (R65). -/
theorem writeBytes_word_getElem? (v : Word) (k : Nat) :
    (writeBytes (.word v))[k]? = if k < 4 then some (v.extractLsb' (8 * k) 8) else none := by
  split_ifs with hk
  · interval_cases k <;> rfl
  · exact List.getElem?_eq_none (not_lt.mp hk)

/-- An idle write of `IBUF` or `XBUF` is answered `ok`, sets the bytes from its index on, and leaves all else (R64). -/
theorem step_bufWrite {s : State} {b : Buf} {i : Nat} {addr : BitVec 14} {data : WriteData} {rest : List Event}
    (hb : b ≠ .obuf) (ht : target addr (writeSize data) = some (.buf b i)) (hp : s.phase = .idle)
    (he : s.events = .write addr data :: rest) :
    ∃ t, step s = .next t ∧
      t = { s with ibuf := t.ibuf, xbuf := t.xbuf, events := rest, replies := .ok :: s.replies } ∧
      ∀ c j, bufByte c t j =
        if c = b ∧ i ≤ j then ((writeBytes data)[j - i]?).getD (bufByte c s j) else bufByte c s j := by
  have hidle : busy { s with events := rest } = false := busy_eq_false.mpr hp
  refine ⟨reply .ok (bufWrite b i (writeBytes data) { s with events := rest }), step_write he ?_, ?_, fun c j => ?_⟩
  · cases b with
    | obuf => exact absurd rfl hb
    | ibuf | xbuf => simp [hostWrite, ht, hidle]
  · cases b <;> rfl
  · have hevents : bufByte c { s with events := rest } j = bufByte c s j := by cases c <;> rfl
    have hreply : ∀ u : State, bufByte c (reply .ok u) j = bufByte c u j := by cases c <;> exact fun _ => rfl
    rw [hreply, bufByte_bufWrite hb, hevents]

/-- Settles O41: the bytes written are the data's lanes, lowest index first. -/
theorem bufferWriteIsLittleEndian : Obligations.BufferWriteIsLittleEndian := by
  intro s b base i addr data rest hbase hi haddr hp he
  obtain ⟨hb, rfl⟩ := operandBuffer_base hbase
  obtain rfl := eq_bufAddr hi haddr
  refine ⟨?_, ?_⟩
  · rintro v rfl
    obtain ⟨t, ht, hframe, hbytes⟩ := step_bufWrite hb (target_bufAddr_byte b hi) hp he
    refine ⟨t, ht, hframe, fun c j => ?_⟩
    rw [hbytes, writeBytes]
    grind
  · rintro v rfl h4
    obtain ⟨t, ht, hframe, hbytes⟩ := step_bufWrite hb (target_bufAddr_word b hi h4) hp he
    refine ⟨t, ht, hframe, fun c j => ?_⟩
    rw [hbytes, writeBytes_word_getElem?]
    grind

/-! ### The bits of the mixing-function port (R121) -/

/-- Byte `j` of a sequence travels on bits `8j+7 : 8j`. -/
theorem bitsOfBytes_lane (bs : List Byte) {j : Nat} (hj : j < 16) :
    (bitsOfBytes bs).extractLsb' (8 * j) 8 = bs.getD j 0 := by
  induction bs generalizing j with
  | nil => simp [bitsOfBytes]
  | cons b bs ih =>
    have hcons : bitsOfBytes (b :: bs) = (bitsOfBytes bs <<< 8) ||| b.setWidth 128 := rfl
    apply BitVec.eq_of_getLsbD_eq
    intro k hk
    simp only [hcons, BitVec.getLsbD_extractLsb', BitVec.getLsbD_or, BitVec.getLsbD_shiftLeft, BitVec.getLsbD_setWidth]
    cases j with
    | zero => simp [hk, show k < 128 by omega]
    | succ j =>
      have hlane := congrArg (fun x => x.getLsbD k) (ih (j := j) (by omega))
      simp only [BitVec.getLsbD_extractLsb', hk, decide_true, Bool.true_and] at hlane
      have hidx : 8 * (j + 1) + k - 8 = 8 * j + k := by omega
      have hhigh : b.getLsbD (8 * (j + 1) + k) = false := BitVec.getLsbD_of_ge _ _ (by omega)
      simp only [hidx, hhigh, hlane, List.getD_cons_succ]
      simp [hk]
      omega

theorem halfOfBits_getElem? (v : BitVec 128) {j : Nat} (hj : j < 16) :
    (halfOfBits v).bytes[j]? = some (v.extractLsb' (8 * j) 8) := by
  simp [halfOfBits, hj]

/-- Settles O57. -/
theorem portBitsCarryTheHalf : Obligations.PortBitsCarryTheHalf := by
  refine ⟨fun h => half_ext (List.ext_getElem? fun j => ?_), fun v j hj => halfOfBits_getElem? v hj⟩
  by_cases hj : j < 16
  · rw [halfOfBits_getElem? _ hj, bitsOfHalf, bitsOfBytes_lane _ hj]
    simp [hj]
  · simp [hj]

end Sys2Proof.Machine
end

section
/-! The decoder as the opcode map (R92, R93, R94). -/

namespace Sys2Proof.Machine

/-- The words `encode` writes are those of the opcode map (R92). -/
theorem eq_encode_iff {w : Word} {i : Instr} :
    w = encode i ↔
      i = .xor ∧ w = 0x00000001 ∨ i = .round ∧ w = 0x00000002 ∨ i = .flip ∧ w = 0x00000003 ∨
      i = .pad ∧ w = 0x00000004 ∨ i = .unpad ∧ w = 0x00000005 ∨ i = .enc ∧ w = 0x00000006 ∨
      i = .dec ∧ w = 0x00000016 ∨ i = .rst ∧ w = 0x00000007 := by
  cases i <;> simp only [reduceCtorEq, false_and, true_and, false_or, or_false] <;> exact Iff.rfl

theorem decode_eq_ok_iff {w : Word} {i : Instr} : decode w = .ok i ↔ w = encode i :=
  ⟨eq_encode_of_decode, fun h => h ▸ decode_encode i⟩

/-- Settles O1: a word that decodes is the one its fields pack to, and `encode` writes the words of the map. -/
theorem decodeAcceptsExactlyTheEncodings : Obligations.DecodeAcceptsExactlyTheEncodings :=
  fun _ _ => ⟨decode_eq_ok_iff, decode_eq_ok_iff.trans eq_encode_iff⟩

/-- Settles O2: the legal words are encodings; the others are refused by evaluation of the checks of R93. -/
theorem commandWordsDecode : Obligations.CommandWordsDecode :=
  ⟨decode_encode .xor, decode_encode .round, decode_encode .flip, decode_encode .pad, decode_encode .unpad,
    decode_encode .enc, decode_encode .dec, decode_encode .rst, by decide⟩

end Sys2Proof.Machine
end

section
/-! What a host script reads and where it ends (R96, R97, R284): the responses its accesses put on the record, and the
polling of `wait`, which comes to its end because every turn of the engine leaves the command fewer turns to take. -/

namespace Sys2Proof.Machine

/-! ### The responses of the host port -/

theorem writeDoes_replies {s t : State} {w : Option Word} (h : WriteDoes s (t, w)) :
    ∃ answer, t.replies = answer :: s.replies := by
  cases h with
  | error | dropped | command => exact ⟨_, rfl⟩
  | register r v _ => cases r <;> exact ⟨_, rfl⟩
  | buffer b i v _ _ _ => cases b <;> exact ⟨_, rfl⟩

/-- Whatever a command word leads to, the port's record stays: the write has been answered before (R67). -/
theorem startCommand_replies {w : Word} {s t : State} (hp : s.phase = .idle) (h : startCommand w s = .next t) :
    t.replies = s.replies := by
  unfold startCommand at h
  split at h
  · rename_i i _
    obtain ⟨t', ht', ha⟩ := exec_idle i hp
    cases ht'.symm.trans h
    cases ha <;> rfl
  · cases h
    rfl

/-- A write, a command's among them, gets one response (R62, R67). -/
theorem step_write_replies {s t : State} {addr : BitVec 14} {data : WriteData} {rest : List Event}
    (he : s.events = .write addr data :: rest) (h : step s = .next t) :
    ∃ answer, t.replies = answer :: s.replies := by
  have hdoes := hostWrite_does addr data { s with events := rest }
  simp only [step_event he, takeEvent] at h
  split at h
  · rename_i u hw
    cases h
    rw [hw] at hdoes
    exact writeDoes_replies (s := { s with events := rest }) hdoes
  · rename_i u w hw
    obtain ⟨-, -, hp, rfl⟩ := hostWrite_command hw
    exact ⟨.ok, startCommand_replies (s := reply .ok { s with events := rest }) hp h⟩

/-- The responses between two states are those that the record has gained. -/
theorem repliesBetween_of_replies {s t : State} {rs : List Reply} (h : t.replies = rs.reverse ++ s.replies) :
    repliesBetween s t = rs := by
  simp [repliesBetween, h]

/-- Settles O58: the read's response is the register's value, and the write adds one response and no read. -/
theorem expectSpeaksOfTheReadBefore : Obligations.ExpectSpeaksOfTheReadBefore := by
  intro s t r r' x v rest he hrun
  obtain ⟨u, hu, hrun⟩ := stepMany_succ_next hrun
  rw [step_registerRead he] at hu
  cases hu
  obtain ⟨t', ht, hrun⟩ := stepMany_succ_next hrun
  cases hrun
  obtain ⟨answer, hanswer⟩ := step_write_replies rfl ht
  have hseen : repliesBetween s t = [.word (regRead r s), answer] := repliesBetween_of_replies hanswer
  simp [scriptAsserts, hseen, scriptHolds, lineWellFormed, lineEvents, lineAccesses, seenOf, expectHolds, registerSeen]

/-- A word read of a register answers its value (R63). -/
theorem hostRead_register (r : Reg) (s : State) :
    hostRead (regAddr r) .word s = reply (.word (regRead r s)) s := by
  simp only [hostRead, target_regAddr]

/-- Settles O56: `wait` is a read of `STATUS`, and puts itself back on the list behind a turn while busy. -/
theorem waitPollsStatus : Obligations.WaitPollsStatus := by
  intro s rest he
  have hread := hostRead_register .status { s with events := rest }
  by_cases hp : s.phase = .idle
  · have hb : busy { s with events := rest } = false := busy_eq_false.mpr hp
    rw [step_event he, takeEvent, waitStep, if_pos hp, hb]
    exact congrArg (fun u => Host.Outcome.next { u with events := rest }) hread
  · have hb : busy { s with events := rest } = true := busy_eq_true.mpr hp
    rw [step_event he, takeEvent, waitStep, if_neg hp, hb]
    exact congrArg (fun u => Host.Outcome.next { u with events := .turn :: .wait :: rest }) hread

/-! ### The turns a command still takes (R184) -/

/-- The turns the engine takes to the end of the command, if the unit answers every request with a value: for the rest
of the block, for each later block, and for `FINISH` (R184, R185). -/
def turnsLeft (s : State) : Nat :=
  let rounds := s.latch.reff.toNat - s.rcnt.toNat
  let later := (s.latch.nb.toNat - (s.bcnt.toNat + 1)) * (2 + 2 * s.latch.reff.toNat)
  match s.phase with
  | .idle => 0
  | .exec | .finish => 1
  | .load => later + 2 * s.latch.reff.toNat + 3
  | .freq => later + 2 * rounds + 2
  | .fwait => later + 2 * rounds + 1
  | .store => later + 2

theorem turnsLeft_idle {s : State} (hp : s.phase = .idle) : turnsLeft s = 0 := by
  simp only [turnsLeft, hp]

theorem turnsLeft_pos {s : State} (hb : s.phase ≠ .idle) : 0 < turnsLeft s := by
  cases hp : s.phase
  case idle => exact absurd hp hb
  all_goals simp only [turnsLeft, hp]; omega

/-- Every step of the command in progress leaves it fewer turns to take, whatever the unit answers. -/
theorem runs_turnsLeft {s t : State} (h : PositionOk s) (hr : Runs s t) : turnsLeft t < turnsLeft s := by
  have hpos := turnsLeft_pos hr.busy
  cases hr with
  | result | error | finish => rwa [turnsLeft_idle rfl]
  | load l r hp =>
    simp only [PositionOk, hp] at h
    obtain ⟨-, -, -, hrc⟩ := h
    simp [turnsLeft, hp, hrc]
  | request hp => simp [turnsLeft, hp]
  | response hp =>
    simp only [PositionOk, hp] at h
    obtain ⟨-, -, -, hrc, -⟩ := h
    cases mixFn s.mix s.right with
    | fail code => rwa [turnsLeft_idle rfl]
    | ok y =>
      have hsucc := toNat_add_one_of_lt hrc
      rw [responseStep_ok]
      by_cases hlast : s.rcnt + 1 = s.latch.reff <;> simp only [turnsLeft, hp, hlast, if_true, if_false] <;> omega
  | store b hp hcap =>
    simp only [PositionOk, hp] at h
    obtain ⟨-, -, hb, -⟩ := h
    have hnb : (s.latch.nb.setWidth 32).toNat = s.latch.nb.toNat := BitVec.toNat_setWidth_of_le (by decide)
    by_cases hlast : s.bcnt + 1 = s.latch.nb.setWidth 32
    · simp only [turnsLeft, hp, hlast, if_true]
      omega
    · have hsucc := toNat_add_one_of_lt (hb.trans_eq hnb.symm)
      have hne := BitVec.toNat_ne_iff_ne.mpr hlast
      obtain ⟨later, hlater⟩ := Nat.exists_eq_add_of_le (show s.bcnt.toNat + 2 ≤ s.latch.nb.toNat by omega)
      simp only [turnsLeft, hp, hlast, if_false, hsucc, hlater]
      rw [show s.bcnt.toNat + 2 + later - (s.bcnt.toNat + 1) = later + 1 by omega, Nat.add_one_mul later]
      simp only [Nat.add_sub_cancel_left]
      omega

/-- With a unit that answers, a turn while busy is a step of the command in progress (R184, R186). -/
theorem turn_of_busy {s : State} (h : PositionOk s) (hb : s.phase ≠ .idle) (ha : s.mix.answering = true) :
    ∃ t, turn s = .next t ∧ Runs s t := by
  obtain ⟨i, hi⟩ := h.exists_command hb
  obtain ⟨t, ht⟩ := exec_progress h hb hi
  exact ⟨t, (turn_runs hb (fun _ => ha) (latchedCommand_eq_some.mp hi)).trans ht, exec_busy hb ht⟩

/-! ### What a command leaves of the buffers and the ports -/

/-- `t` holds the operand buffers and the mixing-function unit of `s`. -/
structure InputsKept (s t : State) : Prop where
  ibuf : t.ibuf = s.ibuf
  xbuf : t.xbuf = s.xbuf
  resets : t.resets = s.resets
  mix : t.mix = s.mix

theorem inputsKept_host (s : State) (es : List Event) (rs : List Reply) :
    InputsKept s { s with events := es, replies := rs } := ⟨rfl, rfl, rfl, rfl⟩

theorem InputsKept.trans {s t u : State} (h : InputsKept s t) (h' : InputsKept t u) : InputsKept s u :=
  ⟨h'.ibuf.trans h.ibuf, h'.xbuf.trans h.xbuf, h'.resets.trans h.resets, h'.mix.trans h.mix⟩

theorem runs_inputsKept {s t : State} (h : Runs s t) : InputsKept s t := by
  obtain ⟨hi, hx, -, -, -, -, -, hm, hr⟩ := runs_operandsKept h
  exact ⟨hi, hx, hr, hm⟩

/-- Not even `RST` touches the buffers (R210). -/
theorem accepts_inputsKept {i : Instr} {s t : State} (h : Accepts i s t) : InputsKept s t := by
  cases h <;> exact ⟨rfl, rfl, rfl, rfl⟩

theorem runs_host {s t : State} (h : Runs s t) : t.events = s.events ∧ t.replies = s.replies := by
  cases h with
  | response _ => cases mixFn s.mix s.right <;> exact ⟨rfl, rfl⟩
  | result | error | load | request | store | finish => exact ⟨rfl, rfl⟩

theorem accepts_host {i : Instr} {s t : State} (h : Accepts i s t) : t.events = s.events ∧ t.replies = s.replies := by
  cases h <;> exact ⟨rfl, rfl⟩

/-! ### The polling of `wait` -/

/-- `s` after a `wait` has read `STATUS` and before it reads again, `rest` to come after it. -/
def polled (rest : List Event) (s : State) : State :=
  { s with events := .wait :: rest, replies := .word (regRead .status s) :: s.replies }

theorem step_turnEvent {s : State} {rest : List Event} (he : s.events = .turn :: rest) :
    step s = turn { s with events := rest } := step_event he

/-- While busy a `wait` reads `STATUS`, gives the engine a turn, and goes on (log 16). -/
theorem stepMany_poll {s u : State} {rest : List Event} (k : Nat) (he : s.events = .wait :: rest)
    (hb : s.phase ≠ .idle) (hu : turn (polled rest s) = .next u) : stepMany (k + 2) s = stepMany k u := by
  have hread := waitPollsStatus s rest he
  rw [if_neg hb] at hread
  have hturn : step { polled rest s with events := .turn :: .wait :: rest } = .next u :=
    (step_turnEvent rfl).trans hu
  exact (stepMany_succ_of_step hread).trans (stepMany_succ_of_step hturn)

/-- What a read of `STATUS` means to a `wait`: the end while idle, otherwise the next read counts (R97). -/
theorem waitAnswer_status (s : State) (rs : List Reply) :
    waitAnswer (.word (regRead .status s) :: rs) =
      if s.phase = .idle then some (.word (regRead .status s), rs) else waitAnswer rs := by
  have hbit : (regRead .status s).getLsbD 0 = busy s := statusWord_getLsbD s 0
  by_cases hp : s.phase = .idle
  · rw [waitAnswer, hbit, busy_eq_false.mpr hp, if_pos hp]
    rfl
  · rw [waitAnswer, hbit, busy_eq_true.mpr hp, if_neg hp]
    rfl

/-- `t` is `s` after a `wait`: idle, with `rest` to come, and the reads of the `wait` on record, the last of which
ended it. -/
structure Waited (s t : State) (rest : List Event) : Prop where
  idle : t.phase = .idle
  events : t.events = rest
  inputs : InputsKept s t
  reads : ∃ rs last, t.replies = rs.reverse ++ s.replies ∧ waitAnswer rs = some (last, [])

/-- A `wait` comes to its end, by induction on the turns left: between two reads there is one (R97, R184, R272). -/
theorem wait_ends {s : State} {rest : List Event} (h : Inv s) (ha : s.mix.answering = true)
    (he : s.events = .wait :: rest) : ∃ k t, stepMany k s = .next t ∧ Waited s t rest := by
  induction hn : turnsLeft s using Nat.strong_induction_on generalizing s with
  | _ n ih =>
    by_cases hp : s.phase = .idle
    · have hread := waitPollsStatus s rest he
      rw [if_pos hp] at hread
      have hans := waitAnswer_status s []
      rw [if_pos hp] at hans
      exact ⟨1, _, stepMany_succ_of_step hread, hp, rfl, ⟨rfl, rfl, rfl, rfl⟩, [_], _, rfl, hans⟩
    · have hpolled : Inv (polled rest s) := h.environment ..
      obtain ⟨u, hu, hruns⟩ := turn_of_busy hpolled.position hp ha
      have hin := (inputsKept_host s _ _).trans (runs_inputsKept hruns)
      obtain ⟨hevents, hreplies⟩ := runs_host hruns
      have hless : turnsLeft u < n := (runs_turnsLeft hpolled.position hruns).trans_eq hn
      obtain ⟨k, t, hrun, hw⟩ := ih _ hless (inv_runs hpolled hruns) (hin.mix ▸ ha) hevents rfl
      obtain ⟨rs, last, hrs, hans⟩ := hw.reads
      refine ⟨k + 2, t, (stepMany_poll k he hp hu).trans hrun, hw.idle, hw.events, hin.trans hw.inputs,
        .word (regRead .status s) :: rs, last, ?_, ?_⟩
      · simp [hrs, hreplies, polled]
      · rw [waitAnswer_status, if_neg hp, hans]

/-! ### The end of `cmd M; wait` (R284) -/

/-- After the response to a command and the reads of a `wait` the script is executed. -/
theorem scriptExecuted_cmd_wait {i : Instr} {s t : State} {answer last : Reply} {rs : List Reply}
    (h : t.replies = rs.reverse ++ answer :: s.replies) (hans : waitAnswer rs = some (last, [])) :
    scriptExecuted [.cmd i, .wait] s t = true := by
  have hseen : repliesBetween s t = answer :: rs := repliesBetween_of_replies (by simp [h])
  simp [scriptExecuted, hseen, scriptEvents, lineWellFormed, lineEvents, lineAccesses, seenOf, hans]

/-- The bytes of a buffer are as they were where neither it nor the number of resets has changed. -/
theorem bufSlice_kept (b : Buf) {s t : State} (hc : bufCells b t = bufCells b s) (hr : t.resets = s.resets) (j : Nat) :
    (bufSlice b t 0 Config.cap)[j]? = if j < 4096 then some (bufByte b s j) else none := by
  rw [bufSlice_getElem?, Nat.zero_add, bufByte_congr hc hr, cap_eq]

/-- The script of a command and a `wait` runs to its end: the write is the command's acceptance, and the `wait` ends. -/
theorem cmd_wait_ends {s : State} {i : Instr} (h : Inv s) (hp : s.phase = .idle) (ha : s.mix.answering = true)
    (he : s.events = scriptEvents [.cmd i, .wait]) :
    ∃ k t, stepMany k s = .next t ∧ scriptEnded [.cmd i, .wait] s t = true ∧ InputsKept s t := by
  have hstep := writtenCommandRuns s (encode i) i [.wait] hp he (decode_encode i)
  obtain ⟨u, hu, hacc⟩ := exec_idle i (s := { s with events := [.wait], replies := .ok :: s.replies }) hp
  have hin := (inputsKept_host s _ _).trans (accepts_inputsKept hacc)
  obtain ⟨hevents, hreplies⟩ := accepts_host hacc
  have hinv : Inv u := inv_exec_idle (s := { s with events := [.wait], replies := .ok :: s.replies }) h.buffers hp hu
  obtain ⟨k, t, hrun, hw⟩ := wait_ends hinv (hin.mix ▸ ha) hevents
  obtain ⟨rs, last, hrs, hans⟩ := hw.reads
  refine ⟨k + 1, t, ?_, scriptEnded_iff.mpr ⟨?_, hw.idle⟩, hin.trans hw.inputs⟩
  · rw [stepMany_succ_of_step (hstep.trans hu), hrun]
  · exact scriptExecuted_cmd_wait (hreplies ▸ hrs) hans

/-- Settles O59: the script ends (`cmd_wait_ends`), and the end state is read off the state it ends in. -/
theorem commandAndWaitEnds : Obligations.CommandAndWaitEnds := by
  refine ⟨fun s i h hp ha he => ?_, fun ls s t hb => scriptEndState_busy hb⟩
  obtain ⟨k, t, hrun, hend, hin⟩ := cmd_wait_ends h hp ha he
  refine ⟨k, t, hrun, hend, endState t, scriptEndState_ended hend, fun _ _ => mem_endState_registers, rfl,
    fun j => ?_, fun j => ?_⟩
  · simp only [endState, bufSlice_kept .ibuf hin.ibuf hin.resets j]
  · simp only [endState, bufSlice_kept .xbuf hin.xbuf hin.resets j]

end Sys2Proof.Machine
end

section
/-! `xor` of byte sequences and its laws (R110, R111, R112), and `XOR`: its acceptance and its `EXEC` step (R113). -/

namespace Sys2Proof.Machine

/-! ### `xor` and its laws -/

/-- `xor` has a value exactly for sequences of equal length, and which (R110, R112). -/
theorem xorSeq_eq_some_iff {a b z : List Byte} :
    xorSeq a b = some z ↔ a.length = b.length ∧ List.zipWith (· ^^^ ·) a b = z := by
  simp [xorSeq]

theorem exists_xorSeq {a b : List Byte} (h : a.length = b.length) : ∃ z, xorSeq a b = some z :=
  ⟨_, xorSeq_eq_some_iff.mpr ⟨h, rfl⟩⟩

theorem xorSeq_eq_none_iff {a b : List Byte} : xorSeq a b = none ↔ a.length ≠ b.length := by
  simp [xorSeq]

/-- Byte `i` of the result is the exclusive-or of the bytes `i` (R110). -/
theorem xorSeq_getElem? {a b z : List Byte} (h : xorSeq a b = some z) {i : Nat} {x y : Byte}
    (hx : a[i]? = some x) (hy : b[i]? = some y) : z[i]? = some (x ^^^ y) := by
  obtain ⟨-, rfl⟩ := xorSeq_eq_some_iff.mp h
  simp [List.getElem?_zipWith, hx, hy]

theorem xorSeq_comm (a b : List Byte) : xorSeq a b = xorSeq b a := by
  simp only [xorSeq, eq_comm (a := a.length), List.zipWith_comm_of_comm BitVec.xor_comm (l := a)]

theorem xorSeq_cancel {a b z : List Byte} (h : xorSeq a b = some z) : xorSeq z b = some a := by
  obtain ⟨hlen, rfl⟩ := xorSeq_eq_some_iff.mp h
  exact xorSeq_eq_some_iff.mpr ⟨by simp [hlen], zipWith_xor_cancel a b hlen⟩

theorem xorSeq_zeros (a : List Byte) : xorSeq a (List.replicate a.length 0) = some a := by
  have hbytes : List.zipWith (· ^^^ ·) a (List.replicate a.length 0) = a :=
    List.ext_getElem (by simp) fun i _ _ => by simp
  exact xorSeq_eq_some_iff.mpr ⟨by simp, hbytes⟩

/-- `a` is the exclusive-or of zeros and `a`, so `a` cancels to zeros. -/
theorem xorSeq_self (a : List Byte) : xorSeq a a = some (List.replicate a.length 0) :=
  xorSeq_cancel ((xorSeq_comm ..).trans (xorSeq_zeros a))

theorem xorSeq_append {a b z a' b' z' : List Byte} (h : xorSeq a b = some z) (h' : xorSeq a' b' = some z') :
    xorSeq (a ++ a') (b ++ b') = some (z ++ z') := by
  obtain ⟨hlen, rfl⟩ := xorSeq_eq_some_iff.mp h
  obtain ⟨hlen', rfl⟩ := xorSeq_eq_some_iff.mp h'
  exact xorSeq_eq_some_iff.mpr ⟨by simp [hlen, hlen'], List.zipWith_append hlen⟩

/-- Settles O25: the laws of `xorSeq`, for the value it has at equal lengths. -/
theorem xorOfSequences : Obligations.XorOfSequences := by
  refine fun a b => ⟨xorSeq_eq_none_iff.mpr, fun hlen => ?_⟩
  obtain ⟨z, hz⟩ := exists_xorSeq hlen
  exact ⟨z, hz, xorSeq_length hz, fun _ _ _ => xorSeq_getElem? hz, xorSeq_comm b a ▸ hz, xorSeq_cancel hz,
    xorSeq_zeros a, xorSeq_self a, fun _ _ _ => xorSeq_append hz⟩

/-! ### The ends of an acceptance, and of an `EXEC` step with a result -/

/-- A check of acceptance that fails ends the command in its error (R176, R236). -/
theorem raise_beginCommand (e : ErrorKind) (info : Word) (i : Instr) (s : State) :
    raise e info (beginCommand i s) = rejectedState (beginCommand i s).latch (errorCode e) info s := rfl

/-- Past its checks a command without blocks is in `EXEC` (R176). -/
theorem enterExec_beginCommand (i : Instr) (s : State) :
    enterExec (beginCommand i s) = acceptedState i 0 0 0 .exec s := rfl

/-- An `EXEC` step's end with a result that fits: the result stands in `OBUF` from byte 0 on, what lies behind it is
kept, and beside it only `DST_LEN`, `DONE` and the phase change (R177, R183). -/
theorem putResult_completes {v : List Byte} (s : State) (h : v.length ≤ 4096) :
    ∃ t, putResult v s = .next t ∧ ExecCompleted v.length s t ∧
      ∀ j, bufByte .obuf t j = (v[j]?).getD (bufByte .obuf s j) :=
  ⟨_, putResult_le s h, rfl, fun j => (bufByte_storeObuf .obuf s 0 j v).trans (by simp)⟩

/-! ### `XOR` -/

theorem exec_xor_idle {s : State} (hp : s.phase = .idle) : exec .xor s = .next (acceptXor s) := by
  simp only [exec, execXor, hp]

/-- The acceptance of `XOR` is one of three states; after an error the latches are those of `beginCommand` (R113). -/
theorem acceptXor_eq (s : State) :
    acceptXor s =
      if s.srcLen ≠ s.src2Len then rejectedState (beginCommand .xor s).latch 1 s.src2Len s
      else if 4096 < s.srcLen.toNat then rejectedState (beginCommand .xor s).latch 7 s.srcLen s
      else acceptedState .xor 0 0 0 .exec s := by
  simp only [acceptXor, raise_beginCommand, enterExec_beginCommand, errorCode, cap_eq]

/-- The operands of `XOR` at equal latched lengths have an exclusive-or, which is that of the buffers (R110, R113). -/
theorem xorSeq_operands {s : State} (hn : s.latch.n = s.latch.n2) :
    ∃ z, xorSeq (operandA s) (operandB s) = some z ∧
      ∀ j, z[j]? = if j < s.latch.n.toNat then some (bufByte .ibuf s j ^^^ bufByte .xbuf s j) else none := by
  have hlen : (operandA s).length = (operandB s).length := by simp [operandB, hn]
  obtain ⟨z, hz⟩ := exists_xorSeq hlen
  refine ⟨z, hz, fun j => ?_⟩
  split
  · exact xorSeq_getElem? hz (by simpa [operandA, bufSlice_getElem?])
      (by simpa [operandB, bufSlice_getElem?, ← hn])
  · exact List.getElem?_eq_none (by rw [xorSeq_length hz, operandA_length]; omega)

/-- The `EXEC` step of `XOR` ends with the exclusive-or of its operands (R113, R177). -/
theorem exec_xor_execPhase {s : State} {z : List Byte} (hp : s.phase = .exec)
    (hz : xorSeq (operandA s) (operandB s) = some z) : exec .xor s = putResult z s := by
  simp only [exec, execXor, hp, hz]

/-- Settles O6: the acceptance is `acceptXor`, and the `EXEC` step puts the exclusive-or of the operands into `OBUF`. -/
theorem xorCommand : Obligations.XorCommand := by
  refine ⟨rfl, fun s hp => ⟨(beginCommand .xor s).latch, ?_⟩, fun s hp hn hcap => ?_⟩
  · rw [exec_xor_idle hp, acceptXor_eq]
  · obtain ⟨z, hz, hbytes⟩ := xorSeq_operands hn
    have hlen : z.length = s.latch.n.toNat := (xorSeq_length hz).trans (operandA_length s)
    obtain ⟨t, ht, hframe, hobuf⟩ := putResult_completes s (hlen ▸ hcap)
    refine ⟨t, (exec_xor_execPhase hp hz).trans ht, hlen ▸ hframe, fun j => ?_⟩
    rw [hobuf, hbytes]
    split <;> rfl

end Sys2Proof.Machine
end

section
/-! The round transform and its inverse (R125, R126), the responses on the mixing-function port (R121 to R124), and
`ROUND`: its acceptance and its undisturbed run (R130, R131). -/

namespace Sys2Proof.Machine

/-! ### The round transform (R125, R126) -/

/-- Where `F` answers the right half with a value, `Ψ` has its value (R125). -/
theorem psi_of_answer {f : MixFn} {b : Block} {y : Half} (h : f b.2 = .ok y) :
    psi f b = .ok (b.2, halfXor b.1 y) := by
  simp only [psi, h]

/-- `Ψ` has a value exactly where `F` answers the right half with one, and which (R125). -/
theorem psi_eq_ok_iff {f : MixFn} {b c : Block} :
    psi f b = .ok c ↔ ∃ y, f b.2 = .ok y ∧ c = (b.2, halfXor b.1 y) := by
  cases h : f b.2 with
  | ok y => simp [psi_of_answer h, eq_comm]
  | fail code => simp [psi, h]

theorem exists_psi {f : MixFn} (hf : Total f) (b : Block) : ∃ c, psi f b = .ok c := by
  obtain ⟨y, hy⟩ := hf b.2
  exact ⟨_, psi_of_answer hy⟩

/-- `flip ∘ Ψ ∘ flip` undoes `Ψ`: the half that `F` was asked is still there, so its answer cancels (R126). -/
theorem psi_flipBlock {f : MixFn} {b c : Block} (h : psi f b = .ok c) : psi f (flipBlock c) = .ok (flipBlock b) := by
  obtain ⟨y, hy, rfl⟩ := psi_eq_ok_iff.mp h
  rw [psi_of_answer (b := flipBlock (b.2, halfXor b.1 y)) hy]
  simp [flipBlock]

theorem psi_injective {f : MixFn} (hf : Total f) {b b' : Block} (h : psi f b = psi f b') : b = b' := by
  obtain ⟨c, hc⟩ := exists_psi hf b
  have hflip : Except.ok (ε := Byte) (flipBlock b) = .ok (flipBlock b') :=
    (psi_flipBlock hc).symm.trans (psi_flipBlock (h ▸ hc))
  exact congrArg flipBlock (Except.ok.inj hflip)

/-- Settles O30: `flip ∘ Ψ ∘ flip` undoes `Ψ` wherever `Ψ` has a value, which for a total `F` is everywhere. -/
theorem flipPsiFlipInvertsPsi : Obligations.FlipPsiFlipInvertsPsi := by
  refine ⟨fun f b b' hf => psi_injective hf, fun f a b y hy => ?_, fun f b hf => ⟨?_, ?_⟩⟩
  · rw [psi_of_answer (b := (halfXor b y, a)) hy, halfXor_cancel]
  · obtain ⟨c, hc⟩ := exists_psi hf b
    exact ⟨c, flipBlock b, hc, psi_flipBlock hc, rfl⟩
  · obtain ⟨c, hc⟩ := exists_psi hf (flipBlock b)
    exact ⟨c, b, hc, psi_flipBlock hc, rfl⟩

/-! ### Responses on the port, and the attached unit (R121 to R124) -/

/-- With `ok` the data bits are the answer, without it the code bits (R123). -/
theorem carries_iff {m : MixResponse} {a : MixAnswer} :
    carries m a = true ↔ m.ok = true ∧ a = .ok (halfOfBits m.data) ∨ m.ok = false ∧ a = .fail m.code := by
  cases a with
  | ok y => simp [carries, eq_comm (a := y)]
  | fail code => simp [carries, eq_comm (a := code)]

/-- A response when none is outstanding is ignored (R123). -/
theorem takeResponse_ignored {m : MixResponse} {s : State} (hp : s.phase ≠ .fwait) : takeResponse m s = .next s := by
  unfold takeResponse
  split
  · contradiction
  all_goals rfl

/-- The answer to the outstanding request is the `FRESP` step of the command in progress (R123, R180). -/
theorem takeResponse_answer {m : MixResponse} {s : State} (hp : s.phase = .fwait)
    (hm : carries m (mixFn s.mix s.right) = true) : takeResponse m s = runLatched s := by
  simp only [takeResponse, hp, hm, if_true]

/-- What is not the answer is refused (U15; log 13). -/
theorem takeResponse_other {m : MixResponse} {s : State} (hp : s.phase = .fwait)
    (hm : ¬ carries m (mixFn s.mix s.right) = true) : takeResponse m s = .refused .responseNotTheAnswer := by
  simp only [takeResponse, hp, hm, Bool.false_eq_true, if_false]

theorem runLatched_of_latchedCommand {i : Instr} {s : State} (hl : latchedCommand s = some i) :
    runLatched s = exec i s := by
  simp only [runLatched, latchedCommand_eq_some.mp hl]

/-- Settles O54: a silent unit leaves the turn without a step, a response is ignored outside FWAIT, and in FWAIT it
counts exactly when its bits carry the answer. -/
theorem responsesOnThePort : Obligations.ResponsesOnThePort := by
  refine ⟨fun s hp he ha => ?_, fun s m rest hp he => ?_, fun s i m rest hp he hl hm => ?_,
    fun s m rest hp he hm => ?_⟩
  · rw [step_turn he, turn_silent hp ha]
  · exact (step_event he).trans (takeResponse_ignored hp)
  · rw [step_event he, takeEvent, takeResponse_answer (s := { s with events := rest }) hp (carries_iff.mpr hm)]
    exact runLatched_of_latchedCommand hl
  · exact (step_event he).trans (takeResponse_other hp (mt carries_iff.mp hm))

/-- Settles O55: the attach event looks at `BUSY` alone. -/
theorem mixingFunctionIsFixedDuringACommand : Obligations.MixingFunctionIsFixedDuringACommand := by
  refine ⟨fun s u rest hp he => ?_, fun s u rest hp he => ?_⟩
  · have hb : busy { s with events := rest } = false := busy_eq_false.mpr hp
    rw [step_event he, takeEvent, attachUnit, hb]
    rfl
  · have hb : busy { s with events := rest } = true := busy_eq_true.mpr hp
    rw [step_event he, takeEvent, attachUnit, hb]
    rfl

/-! ### The acceptance of `ROUND` (R130) -/

theorem exec_round_idle {s : State} (hp : s.phase = .idle) : exec .round s = .next (acceptRound s) := by
  simp only [exec, execRound, hp]

/-- Past its checks a command on blocks is in `LOAD` (R176). -/
theorem enterLoad_beginCommand (reff : Word) (m : Byte) (nb : BitVec 8) (i : Instr) (s : State) :
    enterLoad reff m nb (beginCommand i s) = acceptedState i reff m nb .load s := rfl

/-- The acceptance of `ROUND` is one of two states; after the error the latches are those of `beginCommand` (R130). -/
theorem acceptRound_eq (s : State) :
    acceptRound s =
      if s.srcLen.toNat % 2 = 1 ∨ s.srcLen.toNat ≠ 32 then rejectedState (beginCommand .round s).latch 2 s.srcLen s
      else acceptedState .round 1 0 1 .load s := by
  simp only [acceptRound, raise_beginCommand, enterLoad_beginCommand, errorCode, blockSize_eq]

/-- Settles O11: the acceptance is `acceptRound`. -/
theorem roundAcceptance : Obligations.RoundAcceptance :=
  ⟨rfl, fun s hp => ⟨(beginCommand .round s).latch, by rw [exec_round_idle hp, acceptRound_eq]⟩⟩

/-! ### Undisturbed steps of a command on blocks -/

/-- While nobody else moves and the unit answers, a step is one of the command in progress (R186; log 3). -/
theorem step_undisturbed {i : Instr} {s : State} (hq : Undisturbed s) (hb : s.phase ≠ .idle)
    (hl : latchedCommand s = some i) : step s = exec i s :=
  (step_turn hq.1).trans (turn_runs hb (fun _ => hq.2) (latchedCommand_eq_some.mp hl))

theorem stepMany_succ_undisturbed {i : Instr} {s u : State} (k : Nat) (hq : Undisturbed s) (hb : s.phase ≠ .idle)
    (hl : latchedCommand s = some i) (hu : exec i s = .next u) : stepMany (k + 1) s = stepMany k u :=
  stepMany_succ_of_step ((step_undisturbed hq hb hl).trans hu)

/-- `s` after the `LOAD` step of the block `b` (R178). -/
def afterLoad (b : Block) (s : State) : State := { s with left := b.1, right := b.2, phase := .freq }

/-- `s` after one more round of its block, `b` its halves then (R179, R180). -/
def afterRound (b : Block) (s : State) : State :=
  { s with
    left := b.1, right := b.2, rcnt := s.rcnt + 1, requests := s.right :: s.requests
    phase := if s.rcnt + 1 = s.latch.reff then .store else .freq }

/-- `s` after the `STORE` step of the block `b` (R181). -/
def afterStore (b : Block) (s : State) : State :=
  { storeObuf (s.bcnt.toNat * 32) (blockBytes b) s with
    bcnt := s.bcnt + 1, rcnt := 0
    phase := if s.bcnt + 1 = s.latch.nb.setWidth 32 then .finish else .load }

section
variable {i : Instr} {s : State} (k : Nat) (hq : Undisturbed s) (hl : latchedCommand s = some i)
include hq hl

theorem stepMany_afterLoad {p : Nat → Byte} (hp : s.phase = .load) (hcap : (s.bcnt.toNat + 1) * 32 ≤ 4096)
    (hload : exec i s = loadStep p s) :
    stepMany (k + 1) s = stepMany k (afterLoad (blockAt p s.bcnt.toNat) s) :=
  stepMany_succ_undisturbed k hq (by simp [hp]) hl (hload.trans (loadStep_le p s hcap))

/-- A request and its answer with a value are one application of `Ψ` to the halves (R179, R180). -/
theorem stepMany_afterRound {b : Block} (hp : s.phase = .freq) (hi : i = .round ∨ i = .enc ∨ i = .dec)
    (hb : psi (mixFn s.mix) (s.left, s.right) = .ok b) : stepMany (k + 2) s = stepMany k (afterRound b s) := by
  obtain ⟨y, hy, rfl⟩ := psi_eq_ok_iff.mp hb
  have hresponse : exec i (requestStep s) = .next (afterRound (s.right, halfXor s.left y) s) := by
    rw [exec_fwait hi rfl]
    exact congrArg (fun a => Host.Outcome.next (responseStep a (requestStep s))) hy
  exact (stepMany_succ_undisturbed (k + 1) hq (by simp [hp]) hl (exec_freq hi hp)).trans
    (stepMany_succ_undisturbed (s := requestStep s) k hq nofun hl hresponse)

theorem stepMany_afterStore {b : Block} (hp : s.phase = .store) (hcap : (s.bcnt.toNat + 1) * 32 ≤ 4096)
    (hstore : exec i s = storeStep b s) : stepMany (k + 1) s = stepMany k (afterStore b s) :=
  stepMany_succ_undisturbed k hq (by simp [hp]) hl (hstore.trans (storeStep_le b s hcap))

end

/-! ### The run of `ROUND` (R130, R131) -/

theorem exec_round_load {s : State} (hp : s.phase = .load) : exec .round s = loadStep (roundInput s) s := by
  simp only [exec, execRound, hp]

theorem exec_round_store {s : State} (hp : s.phase = .store) : exec .round s = storeStep (s.left, s.right) s := by
  simp only [exec, execRound, hp]

theorem exec_round_finish {s : State} (hp : s.phase = .finish) : exec .round s = .next (finishWith 32 s) := by
  simp only [exec, execRound, hp, blockSize_eq]

/-- `s` after an undisturbed `ROUND` with the result `b` (R130, R184). -/
def afterRoundCommand (b : Block) (s : State) : State :=
  { s with
    left := b.1, right := b.2, latch := (acceptedState .round 1 0 1 .load s).latch, bcnt := 1, rcnt := 0
    phase := .idle, done := true, err := false, errcode := 0, errinfo := 0, fcode := 0
    obuf := memPutSeq s.obuf 0 (blockBytes b), dstLen := 32
    events := [], replies := .ok :: s.replies, requests := (blockAt (bufByte .ibuf s) 0).2 :: s.requests }

/-- Acceptance, `LOAD`, one round, `STORE` and `FINISH` (R130, R184). -/
theorem stepMany_roundCommand {s : State} {b : Block} (hp : s.phase = .idle) (ha : s.mix.answering = true)
    (hn : s.srcLen = 32) (hb : psi (mixFn s.mix) (blockAt (bufByte .ibuf s) 0) = .ok b) :
    stepMany 6 (submit (encode .round) s) = .next (afterRoundCommand b s) := by
  let accepted := acceptedState .round 1 0 1 .load (submitted s)
  let loaded := afterLoad (blockAt (bufByte .ibuf s) 0) accepted
  let rounded := afterRound b loaded
  let stored := afterStore b rounded
  have hq : Undisturbed accepted := ⟨rfl, ha⟩
  have hl : latchedCommand accepted = some .round := latchedCommand_eq_some.mpr (decode_latched_encode _)
  have hcap : (accepted.bcnt.toNat + 1) * 32 ≤ 4096 := show (0 + 1) * 32 ≤ 4096 by decide
  have haccept : step (submit (encode .round) s) = .next accepted := by
    rw [step_submit hp, exec_round_idle (s := submitted s) hp, acceptRound_eq, if_neg]
    simp [submitted, reply, hn]
  calc stepMany 6 (submit (encode .round) s)
      = stepMany 5 accepted := stepMany_succ_of_step haccept
    _ = stepMany 4 loaded := stepMany_afterLoad 4 hq hl rfl hcap (exec_round_load rfl)
    _ = stepMany 2 rounded := stepMany_afterRound (s := loaded) 2 hq hl rfl (.inl rfl) hb
    _ = stepMany 1 stored := stepMany_afterStore (s := rounded) 1 hq hl rfl hcap (exec_round_store rfl)
    _ = stepMany 0 (finishWith 32 stored) :=
        stepMany_succ_undisturbed (s := stored) 0 hq nofun hl (exec_round_finish rfl)
    _ = .next (afterRoundCommand b s) := rfl

/-- The result of `ROUND` stands in `OBUF` from byte 0 on, and what lies behind it is kept (R130, R181). -/
theorem bufByte_afterRoundCommand (b : Block) (s : State) (j : Nat) :
    bufByte .obuf (afterRoundCommand b s) j = ((blockBytes b)[j]?).getD (bufByte .obuf s j) :=
  (bufByte_storeObuf .obuf s 0 j (blockBytes b)).trans (by simp)

theorem hostResult_afterRoundCommand (b : Block) (s : State) : hostResult (afterRoundCommand b s) = blockBytes b := by
  refine List.ext_getElem ((bufSlice_length ..).trans (blockBytes_length b).symm) fun j _ hj => ?_
  simp [hostResult, bufByte_afterRoundCommand, List.getElem?_eq_getElem hj]

/-- Settles O19: the run ends in `afterRoundCommand`, which holds the result and is the start elsewhere. -/
theorem roundCommandComputesPsi : Obligations.RoundCommandComputesPsi := by
  intro s b hp ha hn hb
  refine ⟨afterRoundCommand b s, stepMany_roundCommand hp ha hn hb, ⟨rfl, rfl, rfl, rfl⟩,
    rfl, rfl, rfl, rfl, rfl, rfl, rfl, hostResult_afterRoundCommand b s, rfl, fun j hj => ?_⟩
  have hbehind : (blockBytes b)[j]? = none := by simpa using hj
  rw [bufByte_afterRoundCommand, hbehind, Option.getD_none]

end Sys2Proof.Machine
end

section
/-! `flip` of byte sequences and its laws (R140, R141), and `FLIP`: its acceptance and its `EXEC` step (R143). -/

namespace Sys2Proof.Machine

/-! ### `flip` and its laws -/

/-- `flip` has a value exactly for sequences of even length, and which (R140; log 20). -/
theorem flipSeq_eq_some_iff {s z : List Byte} :
    flipSeq s = some z ↔ s.length % 2 = 0 ∧ s.drop (s.length / 2) ++ s.take (s.length / 2) = z := by
  simp [flipSeq]

theorem exists_flipSeq {s : List Byte} (h : s.length % 2 = 0) : ∃ z, flipSeq s = some z :=
  ⟨_, flipSeq_even h⟩

theorem length_drop_half {s : List Byte} (h : s.length % 2 = 0) : (s.drop (s.length / 2)).length = s.length / 2 := by
  rw [List.length_drop]; omega

/-- Byte `i` of the result stands half a length away in the sequence: behind `i` or before it (R140). -/
theorem flipSeq_getElem? {s z : List Byte} (h : flipSeq s = some z) (i : Nat) :
    z[i]? = if i < s.length / 2 then s[i + s.length / 2]?
      else if i < s.length then s[i - s.length / 2]? else none := by
  obtain ⟨heven, rfl⟩ := flipSeq_eq_some_iff.mp h
  rw [List.getElem?_append, length_drop_half heven, List.getElem?_drop, List.getElem?_take, Nat.add_comm]
  simp only [show i - s.length / 2 < s.length / 2 ↔ i < s.length by omega]

/-- A half that has been exchanged twice is back in its place (R141). -/
theorem flipSeq_flipSeq {s z : List Byte} (h : flipSeq s = some z) : flipSeq z = some s := by
  have hlen := flipSeq_length h
  obtain ⟨heven, rfl⟩ := flipSeq_eq_some_iff.mp h
  refine flipSeq_eq_some_iff.mpr ⟨by rwa [hlen], ?_⟩
  have hdrop := length_drop_half heven
  rw [hlen, List.drop_left' hdrop, List.take_left' hdrop, List.take_append_drop]

theorem flipSeq_injective {s t : List Byte} (hs : s.length % 2 = 0) (h : flipSeq s = flipSeq t) : s = t := by
  obtain ⟨z, hz⟩ := exists_flipSeq hs
  exact Option.some.inj ((flipSeq_flipSeq hz).symm.trans (flipSeq_flipSeq (h ▸ hz)))

/-- Settles O26: by the involution `flipSeq` is injective, and every even sequence is the `flip` of its own `flip`. -/
theorem flipOfSequences : Obligations.FlipOfSequences := by
  refine ⟨fun s t hs _ => flipSeq_injective hs, fun t ht => ?_, fun s hs => ?_⟩
  · obtain ⟨z, hz⟩ := exists_flipSeq ht
    exact ⟨z, flipSeq_length hz, flipSeq_flipSeq hz⟩
  · obtain ⟨z, hz⟩ := exists_flipSeq hs
    refine ⟨z, hz, flipSeq_length hz, flipSeq_flipSeq hz, fun i => ⟨fun hi => ?_, fun hlo hhi => ?_⟩⟩
    · rw [flipSeq_getElem? hz, if_pos hi]
    · rw [flipSeq_getElem? hz, if_neg (Nat.not_lt.mpr hlo), if_pos hhi]

/-! ### `FLIP` -/

theorem exec_flip_idle {s : State} (hp : s.phase = .idle) : exec .flip s = .next (acceptFlip s) := by
  simp only [exec, execFlip, hp]

/-- The acceptance of `FLIP` is one of three states; after an error the latches are those of `beginCommand` (R143). -/
theorem acceptFlip_eq (s : State) :
    acceptFlip s =
      if s.srcLen.toNat % 2 = 1 then rejectedState (beginCommand .flip s).latch 2 s.srcLen s
      else if 4096 < s.srcLen.toNat then rejectedState (beginCommand .flip s).latch 7 s.srcLen s
      else acceptedState .flip 0 0 0 .exec s := by
  simp only [acceptFlip, raise_beginCommand, enterExec_beginCommand, errorCode, cap_eq]

/-- At an even latched length `N` the operand of `FLIP` has a `flip`: `IBUF[0:N]` with its halves exchanged (R143). -/
theorem flipSeq_operandA {s : State} (hn : s.latch.n.toNat % 2 = 0) :
    ∃ z, flipSeq (operandA s) = some z ∧
      ∀ j, z[j]? =
        if j < s.latch.n.toNat / 2 then some (bufByte .ibuf s (s.latch.n.toNat / 2 + j))
        else if j < s.latch.n.toNat then some (bufByte .ibuf s (j - s.latch.n.toNat / 2)) else none := by
  have hlen := operandA_length s
  obtain ⟨z, hz⟩ := exists_flipSeq (s := operandA s) (hlen ▸ hn)
  have hbyte {i : Nat} (hi : i < s.latch.n.toNat) : (operandA s)[i]? = some (bufByte .ibuf s i) := by
    simp [operandA, hi]
  refine ⟨z, hz, fun j => ?_⟩
  rw [flipSeq_getElem? hz, hlen]
  split_ifs
  · rw [hbyte (by omega), Nat.add_comm]
  · rw [hbyte (by omega)]
  · rfl

/-- The `EXEC` step of `FLIP` ends with the `flip` of its operand (R143, R177). -/
theorem exec_flip_execPhase {s : State} {z : List Byte} (hp : s.phase = .exec) (hz : flipSeq (operandA s) = some z) :
    exec .flip s = putResult z s := by
  simp only [exec, execFlip, hp, hz]

/-- Settles O7: the acceptance is `acceptFlip`, and the `EXEC` step puts the `flip` of the operand into `OBUF`. -/
theorem flipCommand : Obligations.FlipCommand := by
  refine ⟨rfl, fun s hp => ⟨(beginCommand .flip s).latch, ?_⟩, fun s hp hn hcap => ?_⟩
  · rw [exec_flip_idle hp, acceptFlip_eq]
  · obtain ⟨z, hz, hbytes⟩ := flipSeq_operandA hn
    have hlen : z.length = s.latch.n.toNat := (flipSeq_length hz).trans (operandA_length s)
    obtain ⟨t, ht, hframe, hobuf⟩ := putResult_completes s (hlen ▸ hcap)
    refine ⟨t, (exec_flip_execPhase hp hz).trans ht, hlen ▸ hframe, fun j => ?_⟩
    rw [hobuf, hbytes]
    split_ifs <;> rfl

end Sys2Proof.Machine
end

section
/-! `pad` and `unpad` of byte sequences (R150 to R154), and `PAD` and `UNPAD`: their acceptance and their `EXEC` step
(R155, R156). -/

namespace Sys2Proof.Machine

/-! ### `pad` -/

theorem byte_toNat_eq_zero_iff (m : Byte) : m.toNat = 0 ↔ m = 0 := BitVec.toNat_inj (y := 0)

/-- `1 ≤ m ≤ B`, so the pad byte is not 0 (R150). -/
theorem padByte_ne_zero (n : Nat) : padByte n ≠ 0 := by
  rw [ne_eq, ← byte_toNat_eq_zero_iff, padByte_toNat]
  exact Nat.one_le_iff_ne_zero.mp (padCount_range n).1

/-- There is at least one pad byte, so the last byte of the padded sequence is one (R151). -/
theorem pad_getLast? (d : List Byte) : (pad d).getLast? = some (padByte d.length) := by
  have hcount : padCount d.length ≠ 0 := Nat.one_le_iff_ne_zero.mp (padCount_range _).1
  rw [pad, List.getLast?_append, List.getLast?_replicate, if_neg hcount, Option.some_or]

theorem pad_length_eq_add (d : List Byte) : (pad d).length = d.length + padCount d.length := by
  rw [pad_length, add_padCount]

@[simp] theorem pad_take (d : List Byte) : (pad d).take d.length = d := List.take_left

/-- The padded sequence byte by byte: the data, then the pad bytes (R150). -/
theorem pad_getElem? (d : List Byte) (j : Nat) :
    (pad d)[j]? = if j < d.length then d[j]?
      else if j < d.length + padCount d.length then some (padByte d.length) else none := by
  have hpos := (padCount_range d.length).1
  simp only [pad, List.getElem?_append, List.getElem?_replicate,
    show j - d.length < padCount d.length ↔ j < d.length + padCount d.length by omega]

/-- Settles O27: the range and the length are those of `padCount`, the bytes those of `pad`. -/
theorem padOfSequences : Obligations.PadOfSequences := by
  rintro d _ rfl
  obtain ⟨hlo, hhi⟩ := padCount_range d.length
  have hlen := pad_length_eq_add d
  exact ⟨rfl, hlo, hhi, hlen, pad_length d, by omega, by rw [pad_length, Nat.mul_mod_left], by omega, by omega,
    pad_take d, pad_getLast? d⟩

/-! ### The validating unpad -/

/-- The last `m` bytes of `d` are `m` bytes `m`, with `1 ≤ m ≤ B`: what the validating unpad asks of a sequence with
last byte `m` (R153). -/
def WellPadded (d : List Byte) (m : Byte) : Prop :=
  m ≠ 0 ∧ m.toNat ≤ 32 ∧ m.toNat ≤ d.length ∧
    ∀ (j : Nat) (x : Byte), d.length - m.toNat ≤ j → d[j]? = some x → x = m

theorem all_drop_eq_iff (d : List Byte) (n : Nat) (m : Byte) :
    (d.drop n).all (· == m) = true ↔ ∀ (j : Nat) (x : Byte), n ≤ j → d[j]? = some x → x = m := by
  simp only [List.all_eq_true, beq_iff_eq, List.mem_iff_getElem?, List.getElem?_drop]
  constructor
  · intro h j x hj hx
    exact h x ⟨j - n, by rwa [Nat.add_sub_cancel' hj]⟩
  · rintro h x ⟨i, hx⟩
    exact h (n + i) x (Nat.le_add_right n i) hx

/-- The two tests of the validating unpad are those of `WellPadded` (R153). -/
theorem wellPadded_iff_tests (d : List Byte) (m : Byte) :
    WellPadded d m ↔ ¬ (m.toNat = 0 ∨ 32 < m.toNat ∨ d.length < m.toNat) ∧
      (d.drop (d.length - m.toNat)).all (· == m) = true := by
  simp only [WellPadded, all_drop_eq_iff, byte_toNat_eq_zero_iff, not_or, Nat.not_lt, and_assoc, ne_eq]

theorem unpadV_eq_ok {d : List Byte} {m : Byte} (hm : d.getLast? = some m) (h : WellPadded d m) :
    unpadV d = .ok (d.take (d.length - m.toNat)) := by
  obtain ⟨hrange, hall⟩ := (wellPadded_iff_tests d m).mp h
  simp only [unpadV, hm, if_neg hrange, if_pos hall]

/-- Whichever test fails, the error is the same (R153). -/
theorem unpadV_eq_error {d : List Byte} {m : Byte} (hm : d.getLast? = some m) (h : ¬ WellPadded d m) :
    unpadV d = .error m := by
  rw [wellPadded_iff_tests, not_and] at h
  simp only [unpadV, hm]
  split_ifs with hrange hall
  · rfl
  · exact absurd hall (h hrange)
  · rfl

/-- Settles O29: each way of failing is one of `WellPadded` not holding. -/
theorem unpadValidates : Obligations.UnpadValidates := by
  refine ⟨unpad_eq_unpadV, rfl, fun d m hm => ⟨fun hbad => unpadV_eq_error hm ?_, unpadV_eq_ok hm⟩⟩
  rintro ⟨hzero, hblock, hlen, hbytes⟩
  rcases hbad with h | h | h | ⟨j, x, hj, hx, hne⟩
  · exact hzero h
  · omega
  · omega
  · exact hne (hbytes j x hj hx)

/-! ### `unpad` undoes `pad`, and the converse -/

/-- Behind the data stand the pad bytes and nothing else (R150). -/
theorem pad_wellPadded (d : List Byte) : WellPadded (pad d) (padByte d.length) := by
  have hlen := pad_length_eq_add d
  refine ⟨padByte_ne_zero _, ?_, ?_, fun j x hj hx => ?_⟩
  · rw [padByte_toNat]; exact (padCount_range _).2
  · rw [padByte_toNat, hlen]; exact Nat.le_add_left ..
  · rw [padByte_toNat, hlen, Nat.add_sub_cancel] at hj
    rw [pad_getElem?, if_neg (Nat.not_lt.mpr hj), Option.ite_none_right_eq_some] at hx
    exact (Option.some.inj hx.2).symm

/-- Taking off as many bytes as the pad byte says leaves the data (R154). -/
theorem pad_take_sub_padByte (d : List Byte) : (pad d).take ((pad d).length - (padByte d.length).toNat) = d := by
  rw [pad_length_eq_add, padByte_toNat, Nat.add_sub_cancel, pad_take]

theorem unpadV_pad (d : List Byte) : unpadV (pad d) = .ok d := by
  rw [unpadV_eq_ok (pad_getLast? d) (pad_wellPadded d), pad_take_sub_padByte]

theorem unpad0_pad (d : List Byte) : unpad0 (pad d) = .ok d := by
  obtain ⟨-, -, hlen, -⟩ := pad_wellPadded d
  simp only [unpad0, pad_getLast?, if_pos hlen, pad_take_sub_padByte]

/-- On whole blocks the bytes that the validating unpad takes off are those that `pad` appends: their number is the
padding count of what is left (R154). -/
theorem pad_of_unpadV {c d : List Byte} (hne : c.length ≠ 0) (hblocks : c.length % 32 = 0) (h : unpadV c = .ok d) :
    pad d = c := by
  obtain ⟨hnil, -⟩ | ⟨m, -, hlo, hhi, hle, rfl, hbytes⟩ := unpadV_ok h
  · simp [hnil] at hne
  have hcount : padCount (c.length - m.toNat) = m.toNat := by simp only [padCount, blockSize_eq]; omega
  have hbyte : padByte (c.length - m.toNat) = m := by rw [padByte, hcount, BitVec.ofNat_toNat, BitVec.setWidth_eq]
  have hdrop : c.drop (c.length - m.toNat) = List.replicate m.toNat m :=
    List.eq_replicate_iff.mpr ⟨by rw [List.length_drop]; omega, hbytes⟩
  rw [pad, List.length_take_of_le (Nat.sub_le ..), hcount, hbyte, ← hdrop, List.take_append_drop]

/-- Settles O28. -/
theorem unpadInvertsPad : Obligations.UnpadInvertsPad :=
  ⟨fun d => ⟨unpadV_pad d, unpad0_pad d⟩, fun _ _ => pad_of_unpadV⟩

/-! ### `PAD` -/

/-- The operand byte by byte: `IBUF[0:N]` (R91). -/
theorem operandA_getElem? (s : State) (j : Nat) :
    (operandA s)[j]? = if j < s.latch.n.toNat then some (bufByte .ibuf s j) else none := by
  simp only [operandA, bufSlice_getElem?, Nat.zero_add]

theorem exec_pad_idle {s : State} (hp : s.phase = .idle) : exec .pad s = .next (acceptPad s) := by
  simp only [exec, execPad, hp]

/-- The acceptance of `PAD` is one of two states; after an error the latches are those of `beginCommand` (R155). -/
theorem acceptPad_eq (s : State) :
    acceptPad s =
      if 4096 ≤ s.srcLen.toNat then rejectedState (beginCommand .pad s).latch 7 s.srcLen s
      else acceptedState .pad 0 0 0 .exec s := by
  simp only [acceptPad, raise_beginCommand, enterExec_beginCommand, errorCode, cap_eq]

/-- The `EXEC` step of `PAD` ends with the padded operand (R155, R177). -/
theorem exec_pad_execPhase {s : State} (hp : s.phase = .exec) : exec .pad s = putResult (pad (operandA s)) s := by
  simp only [exec, execPad, hp]

/-- Settles O8: the acceptance is `acceptPad`, and the `EXEC` step puts the padded operand into `OBUF`. -/
theorem padCommand : Obligations.PadCommand := by
  refine ⟨rfl, fun s hp => ⟨(beginCommand .pad s).latch, ?_⟩, ?_⟩
  · rw [exec_pad_idle hp, acceptPad_eq]
  · intro s m hp hn hm
    obtain rfl : m = padCount s.latch.n.toNat := hm
    have hlen : (pad (operandA s)).length = s.latch.n.toNat + padCount s.latch.n.toNat := by
      rw [pad_length_eq_add, operandA_length]
    have hcap : (pad (operandA s)).length ≤ 4096 := by rw [pad_length, operandA_length]; omega
    obtain ⟨t, ht, hframe, hobuf⟩ := putResult_completes s hcap
    refine ⟨t, (exec_pad_execPhase hp).trans ht, hlen ▸ hframe, fun j => ?_⟩
    rw [hobuf, pad_getElem?, operandA_length, operandA_getElem?]
    split_ifs <;> rfl

/-! ### `UNPAD` -/

theorem exec_unpad_idle {s : State} (hp : s.phase = .idle) : exec .unpad s = .next (acceptUnpad s) := by
  simp only [exec, execUnpad, hp]

/-- The acceptance of `UNPAD` is one of two states; after an error the latches are those of `beginCommand` (R156). -/
theorem acceptUnpad_eq (s : State) :
    acceptUnpad s =
      if 4096 < s.srcLen.toNat then rejectedState (beginCommand .unpad s).latch 7 s.srcLen s
      else acceptedState .unpad 0 0 0 .exec s := by
  simp only [acceptUnpad, raise_beginCommand, enterExec_beginCommand, errorCode, cap_eq]

/-- The `EXEC` step of `UNPAD` ends with the unpadded operand, if there is one (R156, R177). -/
theorem exec_unpad_of_ok {s : State} {v : List Byte} (hp : s.phase = .exec) (hcap : s.latch.n.toNat ≤ 4096)
    (hv : unpadV (operandA s) = .ok v) : exec .unpad s = putResult v s := by
  simp only [exec, execUnpad, hp, withinBuffer_le _ hcap, unpad_eq_unpadV, hv]

/-- Otherwise it ends in `PaddingError` with the last byte (R156, R236). -/
theorem exec_unpad_of_error {s : State} {m : Byte} (hp : s.phase = .exec) (hcap : s.latch.n.toNat ≤ 4096)
    (hm : unpadV (operandA s) = .error m) : exec .unpad s = .next (failedState 4 (m.setWidth 32) s) := by
  simp only [exec, execUnpad, hp, withinBuffer_le _ hcap, unpad_eq_unpadV, hm]
  rfl

/-- The empty operand is its own unpadding, which writes no byte of `OBUF` (R153, R156). -/
theorem exec_unpad_empty {s : State} (hp : s.phase = .exec) (hn : s.latch.n.toNat = 0) :
    exec .unpad s = .next { s with dstLen := 0, done := true, phase := .idle } := by
  have hnil : operandA s = [] := List.eq_nil_of_length_eq_zero ((operandA_length s).trans hn)
  have hv : unpadV (operandA s) = .ok [] := by rw [hnil]; rfl
  rw [exec_unpad_of_ok hp (by omega) hv]
  rfl

theorem operandA_getLast? {s : State} (hn : 0 < s.latch.n.toNat) :
    (operandA s).getLast? = some (bufByte .ibuf s (s.latch.n.toNat - 1)) := by
  rw [List.getLast?_eq_getElem?, operandA_length, operandA_getElem?, if_pos (by omega)]

/-- The padding of `IBUF[0:N]` is malformed exactly where the validating unpad refuses the operand (R153, R156). -/
theorem malformedPadding_iff_not_wellPadded (s : State) (m : Byte) :
    MalformedPadding s s.latch.n.toNat m.toNat ↔ ¬ WellPadded (operandA s) m := by
  have hbytes : (∀ (j : Nat) (x : Byte), s.latch.n.toNat - m.toNat ≤ j → (operandA s)[j]? = some x → x = m) ↔
      ∀ j, s.latch.n.toNat - m.toNat ≤ j → j < s.latch.n.toNat → bufByte .ibuf s j = m := by
    simp [operandA_getElem?, Option.ite_none_right_eq_some]
  rw [WellPadded, operandA_length, hbytes]
  simp [MalformedPadding, byte_toNat_eq_zero_iff, BitVec.toNat_inj, imp_iff_not_or]

/-- Without its last `k` bytes the operand is `IBUF[0:N-k]` (R156). -/
theorem operandA_take_getElem? (s : State) (k j : Nat) :
    ((operandA s).take (s.latch.n.toNat - k))[j]? =
      if j < s.latch.n.toNat - k then some (bufByte .ibuf s j) else none := by
  rw [List.getElem?_take]
  split
  · rw [operandA_getElem?, if_pos (by omega)]
  · rfl

/-- Settles O9: the acceptance is `acceptUnpad`, and the `EXEC` step puts the unpadded operand into `OBUF` or ends in
the error of `unpadV`. -/
theorem unpadCommand : Obligations.UnpadCommand := by
  refine ⟨rfl, fun s hp => ⟨(beginCommand .unpad s).latch, ?_⟩, fun _ => exec_unpad_empty, ?_⟩
  · rw [exec_unpad_idle hp, acceptUnpad_eq]
  · rintro s _ hp hpos hcap rfl
    have hlast := operandA_getLast? hpos
    rw [malformedPadding_iff_not_wellPadded, not_not, BitVec.ofNat_toNat]
    generalize bufByte .ibuf s (s.latch.n.toNat - 1) = m at hlast ⊢
    refine ⟨fun hbad => exec_unpad_of_error hp hcap (unpadV_eq_error hlast hbad), fun hgood => ?_⟩
    have hv := unpadV_eq_ok hlast hgood
    rw [operandA_length] at hv
    have hlen : ((operandA s).take (s.latch.n.toNat - m.toNat)).length = s.latch.n.toNat - m.toNat :=
      List.length_take_of_le (by rw [operandA_length]; omega)
    obtain ⟨t, ht, hframe, hobuf⟩ := putResult_completes s (hlen ▸ (Nat.sub_le ..).trans hcap)
    refine ⟨t, (exec_unpad_of_ok hp hcap hv).trans ht, hlen ▸ hframe, fun j => ?_⟩
    rw [hobuf, operandA_take_getElem?]
    split_ifs <;> rfl

end Sys2Proof.Machine
end

section
/-! The steps of the commands on blocks, one by one (R177 to R182), the acceptance of `ENC` and `DEC` (R190, R191), and
the end of a command: it comes (R184, R272), and with it `DONE` and the interrupt (R183, R240). -/

namespace Sys2Proof.Machine

/-! ### The end of a command -/

/-- Settles O53, by induction on the turns left: every turn leaves the command fewer, and nobody else moves. -/
theorem everyCommandEnds : Obligations.EveryCommandEnds := by
  intro s h hq
  induction hn : turnsLeft s using Nat.strong_induction_on generalizing s with
  | _ n ih =>
    by_cases hp : s.phase = .idle
    · exact ⟨0, s, rfl, hp⟩
    · obtain ⟨u, hu, hruns⟩ := turn_of_busy h.position hp hq.2
      have hqu : Undisturbed u := ⟨(runs_host hruns).1.trans hq.1, (runs_inputsKept hruns).mix ▸ hq.2⟩
      have hless : turnsLeft u < n := (runs_turnsLeft h.position hruns).trans_eq hn
      obtain ⟨k, t, hrun, ht⟩ := ih _ hless u (inv_runs h hruns) hqu rfl
      exact ⟨k + 1, t, (stepMany_succ_of_step ((step_turn hq.1).trans hu)).trans hrun, ht⟩

/-- The step of a command that leaves the machine idle is its completion or its error (R183, R236). -/
theorem runs_done {s t : State} (h : Runs s t) (ht : t.phase = .idle) : t.done = true := by
  cases h with
  | result | error | finish => rfl
  | load | request => cases ht
  | store => dsimp only at ht; split at ht <;> cases ht
  | response =>
    revert ht
    cases mixFn s.mix s.right with
    | fail code => exact fun _ => rfl
    | ok y => rw [responseStep_ok]; dsimp only; split <;> exact nofun

/-- While busy only a step of the command, or a hard reset, makes the machine idle. -/
theorem acts_done {s t : State} {e : Option Event} (h : Acts s e t) (hb : s.phase ≠ .idle)
    (hr : e ≠ some .hardReset) (ht : t.phase = .idle) : t.done = true := by
  cases h with
  | stays => exact absurd ht hb
  | runs _ _ h => exact runs_done h ht
  | reads addr size =>
    obtain ⟨_, _, h⟩ := hostRead_frame addr size s
    rw [h] at ht; exact absurd ht hb
  | waits =>
    obtain ⟨_, _, _, h⟩ := waitStep_frame s
    rw [h] at ht; exact absurd ht hb
  | writes _ _ _ hw => exact absurd ((writeDoes_phase_estk hw).1.symm.trans ht) hb
  | accepts _ _ hp | illegal _ hp | attaches _ hp => exact absurd hp hb
  | resets => exact absurd rfl hr

/-- Settles O52: the step that ends a command sets `DONE`, and no step of a command writes `CTRL`. -/
theorem completionRaisesTheInterrupt : Obligations.CompletionRaisesTheInterrupt := by
  intro s t hb hr h ht
  have hacts := step_acts h
  have hdone := acts_done (s := { s with events := s.events.tail }) hacts hb hr ht
  obtain ⟨-, -, -, -, -, hie, -⟩ :=
    acts_operandsKept (s := { s with events := s.events.tail }) hacts hb hr
  exact ⟨hdone, hie, by rw [irq, hdone, hie, Bool.true_and]⟩

/-! ### The turn of a command in progress (R177, R186) -/

/-- A turn is taken as an entry of the list, or where the list is empty (log 3). -/
theorem step_eq_turn {s : State} (he : s.events = [] ∨ ∃ rest, s.events = .turn :: rest) :
    step s = turn { s with events := s.events.tail } := by
  rcases he with he | ⟨rest, he⟩
  · rw [step_turn he, he, List.tail_nil, ← he]
  · rw [step_turnEvent he, he, List.tail_cons]

/-- Settles O4. -/
theorem latchedCommandRuns : Obligations.LatchedCommandRuns := by
  intro s i hb ha hl he
  rw [step_eq_turn he]
  exact turn_runs (s := { s with events := s.events.tail }) hb ha (latchedCommand_eq_some.mp hl)

/-! ### The acceptance of `ENC` and `DEC` (R190, R191) -/

theorem exec_enc_idle {s : State} (hp : s.phase = .idle) : exec .enc s = .next (acceptEnc s) := by
  simp only [exec, execEnc, hp]

theorem exec_dec_idle {s : State} (hp : s.phase = .idle) : exec .dec s = .next (acceptDec s) := by
  simp only [exec, execDec, hp]

/-- The acceptance of `ENC` is one of three states; after an error the latches are those of `beginCommand` (R190). -/
theorem acceptEnc_eq (s : State) :
    acceptEnc s =
      if 4096 ≤ s.srcLen.toNat then rejectedState (beginCommand .enc s).latch 7 s.srcLen s
      else if s.rounds = 0 then rejectedState (beginCommand .enc s).latch 8 0 s
      else acceptedState .enc s.rounds (padByte s.srcLen.toNat) (BitVec.ofNat 8 (s.srcLen.toNat / 32 + 1)) .load s := by
  simp only [acceptEnc, raise_beginCommand, enterLoad_beginCommand, errorCode, blockSize_eq, cap_eq]

/-- The acceptance of `DEC` is one of four states; after an error the latches are those of `beginCommand` (R191). -/
theorem acceptDec_eq (s : State) :
    acceptDec s =
      if s.srcLen.toNat = 0 ∨ s.srcLen.toNat % 32 ≠ 0 then
        rejectedState (beginCommand .dec s).latch 3 s.srcLen s
      else if 4096 < s.srcLen.toNat then rejectedState (beginCommand .dec s).latch 7 s.srcLen s
      else if s.rounds = 0 then rejectedState (beginCommand .dec s).latch 8 0 s
      else acceptedState .dec s.rounds 0 (BitVec.ofNat 8 (s.srcLen.toNat / 32)) .load s := by
  simp only [acceptDec, raise_beginCommand, enterLoad_beginCommand, errorCode, blockSize_eq, cap_eq]

/-- Settles O12: the acceptances are `acceptEnc` and `acceptDec`, and the pad byte is that of R150. -/
theorem cryptAcceptance : Obligations.CryptAcceptance := by
  refine ⟨rfl, rfl, fun s hp => ⟨(beginCommand .enc s).latch, ?_⟩, fun s hp => ⟨(beginCommand .dec s).latch, ?_⟩⟩
  · rw [exec_enc_idle hp, acceptEnc_eq]
    rfl
  · rw [exec_dec_idle hp, acceptDec_eq]

/-! ### `LOAD`, `FREQ` and `FRESP` (R178, R179, R180) -/

/-- The input `p` of a command on blocks (R172). -/
def blockInput : Instr → State → Nat → Byte
  | .enc => encInput
  | .dec => decInput
  | _ => roundInput

theorem exec_load {i : Instr} {s : State} (hi : i = .round ∨ i = .enc ∨ i = .dec) (hp : s.phase = .load) :
    exec i s = loadStep (blockInput i s) s := by
  rcases hi with rfl | rfl | rfl <;> simp only [exec, execRound, execEnc, execDec, hp, blockInput]

/-- Settles O14: the step loads the block of `blockInput`, which is the input the statement writes out. -/
theorem loadStepTakesTheBlock : Obligations.LoadStepTakesTheBlock := by
  rintro i s p _ hp rfl hcap hinput
  have hi : i = .round ∨ i = .enc ∨ i = .dec := by tauto
  have hpi : p = blockInput i s := by
    rcases hinput with ⟨rfl, h⟩ | ⟨rfl, h⟩ | ⟨rfl, h⟩ <;> exact funext h
  exact ⟨_, (exec_load hi hp).trans (loadStep_le _ s hcap), rfl, hpi ▸ rfl, hpi ▸ rfl⟩

/-- Settles O15. -/
theorem requestStepSendsTheRightHalf : Obligations.RequestStepSendsTheRightHalf :=
  fun _ _ hi hp => exec_freq hi hp

/-- Settles O16: the step is `responseStep` on the answer of `F`, whose two cases these are. -/
theorem responseStepAppliesTheRound : Obligations.ResponseStepAppliesTheRound := by
  refine fun i s hi hp => ⟨fun y hy => ?_, fun code hcode => ?_⟩
  · rw [exec_fwait hi hp, hy]
    exact ⟨_, rfl, rfl, rfl⟩
  · rw [exec_fwait hi hp, hcode]
    rfl

/-! ### `STORE` and `FINISH` (R181, R182) -/

/-- `ENC` and `DEC` store the block with its halves exchanged (R181). -/
theorem exec_crypt_store {i : Instr} {s : State} (hi : i = .enc ∨ i = .dec) (hp : s.phase = .store) :
    exec i s = storeStep (flipBlock (s.left, s.right)) s := by
  rcases hi with rfl | rfl <;> simp only [exec, execEnc, execDec, hp]

/-- `OBUF` after the `STORE` step of a block (R181). -/
theorem bufByte_afterStore (b : Block) (s : State) (j : Nat) :
    bufByte .obuf (afterStore b s) j =
      if s.bcnt.toNat * 32 ≤ j then ((blockBytes b)[j - s.bcnt.toNat * 32]?).getD (bufByte .obuf s j)
      else bufByte .obuf s j :=
  (bufByte_storeObuf .obuf s (s.bcnt.toNat * 32) j (blockBytes b)).trans (by simp only [true_and])

/-- The bytes of the block are those of its place, and only they are written. -/
theorem afterStore_stores (b : Block) (s : State) :
    (∀ j, j < 32 → some (bufByte .obuf (afterStore b s) (s.bcnt.toNat * 32 + j)) = (blockBytes b)[j]?) ∧
      ∀ j, j < s.bcnt.toNat * 32 ∨ (s.bcnt.toNat + 1) * 32 ≤ j →
        bufByte .obuf (afterStore b s) j = bufByte .obuf s j := by
  refine ⟨fun j hj => ?_, fun j hj => ?_⟩
  · simp [bufByte_afterStore, hj]
  · rw [bufByte_afterStore]
    split
    · rw [List.getElem?_eq_none (by rw [blockBytes_length]; omega), Option.getD_none]
    · rfl

/-- Settles O17: the step is `storeStep` of the block whose bytes the statement writes out. -/
theorem storeStepWritesTheBlock : Obligations.StoreStepWritesTheBlock := by
  rintro i s _ out hp rfl hcap hout
  obtain ⟨b, hexec, rfl⟩ : ∃ b, exec i s = storeStep b s ∧ out = blockBytes b := by
    rcases hout with ⟨rfl, rfl⟩ | ⟨hi, rfl⟩
    · exact ⟨_, exec_round_store hp, rfl⟩
    · exact ⟨_, exec_crypt_store hi hp, rfl⟩
  exact ⟨afterStore b s, hexec.trans (storeStep_le b s hcap), rfl, afterStore_stores b s⟩

theorem exec_enc_finish {s : State} (hp : s.phase = .finish) :
    exec .enc s = .next (finishWith (s.latch.nb.toNat * 32) s) := by
  simp only [exec, execEnc, hp, blockSize_eq]

/-- The `FINISH` step of `DEC` where the stored blocks are well padded (R182). -/
theorem exec_dec_finish_of_ok {s : State} {v : List Byte} (hp : s.phase = .finish) (hn : s.latch.n.toNat ≤ 4096)
    (hv : unpadV (storedOutput s) = .ok v) : exec .dec s = .next (finishWith v.length s) := by
  simp only [exec, execDec, hp, finishDec, withinBuffer_le _ hn, unpad_eq_unpadV, hv]

/-- And where they are not (R182, R236). -/
theorem exec_dec_finish_of_error {s : State} {m : Byte} (hp : s.phase = .finish) (hn : s.latch.n.toNat ≤ 4096)
    (hm : unpadV (storedOutput s) = .error m) : exec .dec s = .next (failedState 4 (m.setWidth 32) s) := by
  simp only [exec, execDec, hp, finishDec, withinBuffer_le _ hn, unpad_eq_unpadV, hm]
  rfl

/-- Settles O18. -/
theorem finishStepSettlesTheLength : Obligations.FinishStepSettlesTheLength := by
  refine ⟨fun s hp => exec_round_finish hp, fun s hp => exec_enc_finish hp, fun s hp hn => ?_⟩
  cases hu : unpadV (bufSlice .obuf s 0 s.latch.n.toNat) with
  | ok v => exact exec_dec_finish_of_ok hp hn hu
  | error m => exact exec_dec_finish_of_error hp hn hu

end Sys2Proof.Machine
end

section
/-! The per-block transform and `crypt` as functions (R170, R171): `E` undoes itself (R192), the blocks are independent
(R188), and decrypting undoes encrypting (R193). -/

namespace Sys2Proof.Machine

/-! ### The iterates of `Ψ` and the per-block transform -/

theorem psiIter_succ_eq_ok {f : MixFn} {r : Nat} {b c : Block} :
    psiIter f (r + 1) b = .ok c ↔ ∃ b', psiIter f r b = .ok b' ∧ psi f b' = .ok c := by
  rw [psiIter_succ]
  cases psiIter f r b <;> simp

/-- The first round may be taken off instead of the last (R127). -/
theorem psiIter_succ_of_first {f : MixFn} {b b' c : Block} (r : Nat) (h : psi f b = .ok b')
    (hc : psiIter f r b' = .ok c) : psiIter f (r + 1) b = .ok c := by
  induction r generalizing c with
  | zero => cases hc; exact psiIter_succ_eq_ok.mpr ⟨b, rfl, h⟩
  | succ r ih =>
    obtain ⟨d, hd, hdc⟩ := psiIter_succ_eq_ok.mp hc
    exact psiIter_succ_eq_ok.mpr ⟨d, ih hd, hdc⟩

/-- `flip ∘ Ψ^r ∘ flip` undoes `Ψ^r`: the last round is undone first (R126, R192). -/
theorem psiIter_flipBlock {f : MixFn} {r : Nat} {b c : Block} (h : psiIter f r b = .ok c) :
    psiIter f r (flipBlock c) = .ok (flipBlock b) := by
  induction r generalizing c with
  | zero => cases h; rfl
  | succ r ih =>
    obtain ⟨b', hb', hc⟩ := psiIter_succ_eq_ok.mp h
    exact psiIter_succ_of_first r (psi_flipBlock hc) (ih hb')

theorem exists_psiIter {f : MixFn} (hf : Total f) (r : Nat) (b : Block) : ∃ c, psiIter f r b = .ok c := by
  induction r with
  | zero => exact ⟨b, rfl⟩
  | succ r ih =>
    obtain ⟨b', hb'⟩ := ih
    obtain ⟨c, hc⟩ := exists_psi hf b'
    exact ⟨c, psiIter_succ_eq_ok.mpr ⟨b', hb', hc⟩⟩

theorem transformBlock_eq_ok {f : MixFn} {r : Nat} {b c : Block} :
    transformBlock f r b = .ok c ↔ psiIter f r b = .ok (flipBlock c) := by
  unfold transformBlock
  cases psiIter f r b with
  | error code => simp
  | ok d =>
    simp only [Except.ok.injEq]
    exact ⟨fun h => h ▸ rfl, fun h => h ▸ rfl⟩

/-- `E` undoes itself wherever it has a value (R192). -/
theorem transformBlock_involutive {f : MixFn} {r : Nat} {b c : Block} (h : transformBlock f r b = .ok c) :
    transformBlock f r c = .ok b :=
  transformBlock_eq_ok.mpr (psiIter_flipBlock (transformBlock_eq_ok.mp h))

theorem exists_transformBlock {f : MixFn} (hf : Total f) (r : Nat) (b : Block) :
    ∃ c, transformBlock f r b = .ok c := by
  obtain ⟨c, hc⟩ := exists_psiIter hf r b
  exact ⟨flipBlock c, transformBlock_eq_ok.mpr hc⟩

/-- Settles O31: `E` has a value for a total `F`, and undoes itself there; so it is injective. -/
theorem blockTransformIsAnInvolution : Obligations.BlockTransformIsAnInvolution := by
  intro f r b hf
  obtain ⟨c, hc⟩ := exists_transformBlock hf r b
  have hback := transformBlock_involutive hc
  refine ⟨⟨c, hc, hback⟩, fun b' hb' => ?_⟩
  have hback' := transformBlock_involutive (hb'.symm.trans hc)
  exact Except.ok.inj (hback.symm.trans hback')

/-! ### The blocks of a sequence -/

theorem transformBlocks_succ_eq_ok {f : MixFn} {r nb : Nat} {p : Nat → Byte} {out : List Byte} :
    transformBlocks f r p (nb + 1) = .ok out ↔
      ∃ init b, transformBlocks f r p nb = .ok init ∧ transformBlock f r (blockAt p nb) = .ok b ∧
        out = init ++ blockBytes b := by
  rw [transformBlocks]
  cases transformBlocks f r p nb with
  | error code => simp
  | ok init => cases transformBlock f r (blockAt p nb) <;> simp [eq_comm]

theorem transformBlocks_length {f : MixFn} {r nb : Nat} {p : Nat → Byte} {out : List Byte}
    (h : transformBlocks f r p nb = .ok out) : out.length = nb * 32 := by
  induction nb generalizing out with
  | zero => cases h; rfl
  | succ nb ih =>
    obtain ⟨init, b, hinit, -, rfl⟩ := transformBlocks_succ_eq_ok.mp h
    rw [List.length_append, ih hinit, blockBytes_length, Nat.add_one_mul]

/-- Block `k` of the output stands at its place (R187, R188). -/
theorem transformBlocks_block {f : MixFn} {r nb k : Nat} {p : Nat → Byte} {out : List Byte}
    (h : transformBlocks f r p nb = .ok out) (hk : k < nb) :
    ∃ b, transformBlock f r (blockAt p k) = .ok b ∧ (out.drop (k * 32)).take 32 = blockBytes b := by
  induction nb generalizing out with
  | zero => exact absurd hk (Nat.not_lt_zero k)
  | succ nb ih =>
    obtain ⟨init, b, hinit, hb, rfl⟩ := transformBlocks_succ_eq_ok.mp h
    have hlen := transformBlocks_length hinit
    rcases Nat.lt_succ_iff_lt_or_eq.mp hk with hlt | rfl
    · obtain ⟨c, hc, hout⟩ := ih hinit hlt
      have hin : 32 ≤ (init.drop (k * 32)).length := by rw [List.length_drop]; omega
      refine ⟨c, hc, ?_⟩
      rw [List.drop_append_of_le_length (by omega), List.take_append_of_le_length hin, hout]
    · refine ⟨b, hb, ?_⟩
      rw [List.drop_left' hlen, List.take_of_length_le (blockBytes_length b).le]

/-- Settles O33: the output block is `E` of the input block, and nothing else enters into it. -/
theorem blocksAreIndependent : Obligations.BlocksAreIndependent := by
  refine fun f r nb p out h => ⟨transformBlocks_length h, fun k => transformBlocks_block h, ?_⟩
  intro k k' hk hk' heq
  obtain ⟨b, hb, hout⟩ := transformBlocks_block h hk
  obtain ⟨b', hb', hout'⟩ := transformBlocks_block h hk'
  have hsame : b = b' := Except.ok.inj (hb.symm.trans ((congrArg _ heq).trans hb'))
  rw [hout, hout', hsame]

theorem exists_transformBlocks {f : MixFn} (hf : Total f) (r : Nat) (p : Nat → Byte) (nb : Nat) :
    ∃ out, transformBlocks f r p nb = .ok out := by
  induction nb with
  | zero => exact ⟨[], rfl⟩
  | succ nb ih =>
    obtain ⟨init, hinit⟩ := ih
    obtain ⟨b, hb⟩ := exists_transformBlock hf r (blockAt p nb)
    exact ⟨_, transformBlocks_succ_eq_ok.mpr ⟨init, b, hinit, hb, rfl⟩⟩

/-- The transform reads the first `nb` blocks of its input and no more. -/
theorem transformBlocks_congr {f : MixFn} {r nb : Nat} {p p' : Nat → Byte} (h : ∀ j, j < nb * 32 → p j = p' j) :
    transformBlocks f r p nb = transformBlocks f r p' nb := by
  induction nb with
  | zero => rfl
  | succ nb ih =>
    have hblock : blockAt p nb = blockAt p' nb := blockAt_congr h
    simp only [transformBlocks, hblock, ih fun j hj => h j (by omega)]

/-- A block appended behind `k` blocks is block `k`. -/
theorem blockAt_append {k : Nat} {init : List Byte} (hinit : init.length = k * 32) (b : Block) :
    blockAt (fun j => (init ++ blockBytes b).getD j 0) k = b := by
  refine Prod.ext (half_ext ?_) (half_ext ?_) <;> refine List.ext_getElem (by simp [blockAt]) fun j _ hj => ?_ <;>
    rw [half_length] at hj <;>
    simp [blockAt, hinit, Nat.add_assoc, blockBytes, hj, List.getElem?_append]

/-- The bytes of the first `k + 1` blocks are those of the first `k` and those of block `k`. -/
theorem map_range_blockAt (p : Nat → Byte) (k : Nat) :
    (List.range ((k + 1) * 32)).map p = (List.range (k * 32)).map p ++ blockBytes (blockAt p k) := by
  rw [Nat.add_one_mul, List.range_add, List.map_append, List.map_map]
  rfl

/-- Transforming the blocks of the output gives the blocks of the input (R192, R193). -/
theorem transformBlocks_involutive {f : MixFn} {r nb : Nat} {p : Nat → Byte} {out : List Byte}
    (h : transformBlocks f r p nb = .ok out) :
    transformBlocks f r (fun j => out.getD j 0) nb = .ok ((List.range (nb * 32)).map p) := by
  induction nb generalizing out with
  | zero => rfl
  | succ nb ih =>
    obtain ⟨init, b, hinit, hb, rfl⟩ := transformBlocks_succ_eq_ok.mp h
    have hlen := transformBlocks_length hinit
    have hbefore : ∀ j, j < nb * 32 → (init ++ blockBytes b).getD j 0 = init.getD j 0 :=
      fun j hj => List.getD_append _ _ _ _ (hlen ▸ hj)
    refine transformBlocks_succ_eq_ok.mpr ⟨_, blockAt p nb, ?_, ?_, map_range_blockAt p nb⟩
    · rw [transformBlocks_congr hbefore, ih hinit]
    · rw [blockAt_append hlen]
      exact transformBlock_involutive hb

/-! ### `crypt` -/

theorem map_range_getD (d : List Byte) : (List.range d.length).map (fun j => d.getD j 0) = d :=
  List.ext_getElem (by simp) fun j _ hj => by simp [hj]

theorem cryptSeq_eq_ok {f : MixFn} {r : Nat} {d out : List Byte} :
    cryptSeq f r d = .ok out ↔ transformBlocks f r (fun j => d.getD j 0) (d.length / 32) = .ok out := by
  unfold cryptSeq
  cases transformBlocks f r (fun j => d.getD j 0) (d.length / Config.blockSize) <;> simp

theorem cryptSeq_eq_error {f : MixFn} {r : Nat} {d : List Byte} {e : CryptError} :
    cryptSeq f r d = .error e ↔
      ∃ code, transformBlocks f r (fun j => d.getD j 0) (d.length / 32) = .error code ∧ e = .mix code := by
  unfold cryptSeq
  cases transformBlocks f r (fun j => d.getD j 0) (d.length / Config.blockSize) <;> simp [eq_comm]

/-- On whole blocks the transform keeps the length (R187). -/
theorem cryptSeq_length {f : MixFn} {r : Nat} {d c : List Byte} (hd : d.length % 32 = 0)
    (h : cryptSeq f r d = .ok c) : c.length = d.length := by
  rw [transformBlocks_length (cryptSeq_eq_ok.mp h), Nat.div_mul_cancel (Nat.dvd_of_mod_eq_zero hd)]

/-- And undoes itself (R192). -/
theorem cryptSeq_involutive {f : MixFn} {r : Nat} {d c : List Byte} (hd : d.length % 32 = 0)
    (h : cryptSeq f r d = .ok c) : cryptSeq f r c = .ok d := by
  have hback := transformBlocks_involutive (cryptSeq_eq_ok.mp h)
  rw [Nat.div_mul_cancel (Nat.dvd_of_mod_eq_zero hd), map_range_getD] at hback
  rw [cryptSeq_eq_ok, cryptSeq_length hd h, hback]

theorem crypt_encrypt (d : List Byte) (f : MixFn) (r : Nat) : crypt d f false r = cryptSeq f r (pad d) := rfl

/-- On a positive number of whole blocks, decrypting transforms them and unpads the result (R171). -/
theorem crypt_decrypt {d : List Byte} (f : MixFn) (r : Nat) (hne : d.length ≠ 0) (hd : d.length % 32 = 0) :
    crypt d f true r = (cryptSeq f r d).bind fun out => (unpadV out).mapError .padding := by
  have hlen : ¬ (d.length = 0 ∨ d.length % 32 ≠ 0) := by simp [hne, hd]
  simp only [crypt, if_true, blockSize_eq, if_neg hlen, unpad_eq_unpadV]
  cases cryptSeq f r d with
  | error e => rfl
  | ok out =>
    simp only [Except.bind]
    cases unpadV out <;> rfl

theorem pad_blocks (d : List Byte) : (pad d).length ≠ 0 ∧ (pad d).length % 32 = 0 := by
  rw [pad_length]; omega

/-- Decrypting undoes encrypting wherever `F` answered the halves that encrypting sent (R193). -/
theorem crypt_roundTrip {d c : List Byte} {f : MixFn} {r : Nat} (h : crypt d f false r = .ok c) :
    crypt c f true r = .ok d := by
  obtain ⟨hne, hd⟩ := pad_blocks d
  have hlen := cryptSeq_length hd h
  rw [crypt_decrypt f r (hlen ▸ hne) (hlen ▸ hd), cryptSeq_involutive hd h]
  simp only [Except.bind, unpadV_pad]
  rfl

/-- Settles O32: encrypting has a result for a total `F`, and decrypting undoes it. -/
theorem cryptRoundTrip : Obligations.CryptRoundTrip := by
  intro d f r _ hf
  obtain ⟨c, hc⟩ := exists_transformBlocks hf r (fun j => (pad d).getD j 0) ((pad d).length / 32)
  have hcrypt : crypt d f false r = .ok c := cryptSeq_eq_ok.mpr hc
  exact ⟨c, hcrypt, crypt_roundTrip hcrypt⟩

end Sys2Proof.Machine
end

section
/-! The undisturbed run of `ENC` and `DEC` (R184, R185, R187): round by round, block by block, to the end of the blocks
or to the request that fails. -/

namespace Sys2Proof.Machine

/-! ### What `OBUF` holds -/

theorem memPutSeq_append (m : List Host.Cell) (a : Nat) (v w : List Byte) :
    memPutSeq m a (v ++ w) = memPutSeq (memPutSeq m a v) (a + v.length) w := by
  induction v generalizing m a with
  | nil => rfl
  | cons x v ih => rw [List.cons_append, memPutSeq, memPutSeq, ih, List.length_cons, Nat.add_assoc, Nat.add_comm 1]

/-- `OBUF` of `t` is that of `s` with `out` written from byte 0 on. -/
def ObufHolds (out : List Byte) (s t : State) : Prop :=
  ∀ j, bufByte .obuf t j = (out[j]?).getD (bufByte .obuf s j)

theorem obufHolds_of_memPutSeq {out : List Byte} {s t : State} (hc : t.obuf = memPutSeq s.obuf 0 out)
    (hr : t.resets = s.resets) : ObufHolds out s t := fun j =>
  (bufByte_congr (b := .obuf) (t := storeObuf 0 out s) hc hr j).trans ((bufByte_storeObuf .obuf s 0 j out).trans (by simp))

theorem ObufHolds.slice {out : List Byte} {s t : State} (h : ObufHolds out s t) {n : Nat} (hn : n ≤ out.length) :
    bufSlice .obuf t 0 n = out.take n := by
  refine List.ext_getElem (by simp [hn]) fun j hj _ => ?_
  have hlt : j < out.length := by rw [bufSlice_length] at hj; omega
  simp [h j, hlt]

theorem ObufHolds.behind {out : List Byte} {s t : State} (h : ObufHolds out s t) {j : Nat} (hj : out.length ≤ j) :
    bufByte .obuf t j = bufByte .obuf s j := by
  rw [h j, List.getElem?_eq_none hj, Option.getD_none]

/-! ### The requests of a block, and where the first one fails (R185, R196) -/

theorem roundRequests_succ {f : MixFn} {j : Nat} {b b' : Block} (h : psiIter f j b = .ok b') :
    roundRequests f (j + 1) b = roundRequests f j b ++ [b'.2] := by
  simp only [roundRequests, h]

/-- A block that has gone through `j` rounds has sent `j` requests. -/
theorem roundRequests_length {f : MixFn} {j : Nat} {b c : Block} (h : psiIter f j b = .ok c) :
    (roundRequests f j b).length = j := by
  induction j generalizing c with
  | zero => rfl
  | succ j ih =>
    obtain ⟨b', hb', -⟩ := psiIter_succ_eq_ok.mp h
    rw [roundRequests_succ hb', List.length_append, ih hb', List.length_singleton]

theorem blockRequests_length {f : MixFn} {r k : Nat} {p : Nat → Byte} {out : List Byte}
    (h : transformBlocks f r p k = .ok out) : (blockRequests f r p k).length = k * r := by
  induction k generalizing out with
  | zero => simp [blockRequests]
  | succ k ih =>
    obtain ⟨init, b, hinit, hb, -⟩ := transformBlocks_succ_eq_ok.mp h
    rw [blockRequests, List.length_append, ih hinit, roundRequests_length (transformBlock_eq_ok.mp hb),
      Nat.add_one_mul]

theorem psi_eq_error {f : MixFn} {b : Block} {code : Byte} (h : psi f b = .error code) : f b.2 = .fail code := by
  cases hy : f b.2 with
  | ok y => simp [psi, hy] at h
  | fail c =>
    simp only [psi, hy, Except.error.injEq] at h
    rw [h]

/-- The rounds of a block fail at one of them, those before it having values. -/
theorem psiIter_eq_error {f : MixFn} {r : Nat} {b : Block} {code : Byte} (h : psiIter f r b = .error code) :
    ∃ j b', j < r ∧ psiIter f j b = .ok b' ∧ f b'.2 = .fail code := by
  induction r with
  | zero => cases h
  | succ r ih =>
    rw [psiIter_succ] at h
    cases hb : psiIter f r b with
    | ok b' =>
      rw [hb] at h
      exact ⟨r, b', Nat.lt_succ_self r, hb, psi_eq_error h⟩
    | error c =>
      rw [hb] at h
      obtain ⟨j, b', hj, hok, hfail⟩ := ih (hb.trans h)
      exact ⟨j, b', hj.trans (Nat.lt_succ_self r), hok, hfail⟩

theorem transformBlock_eq_error {f : MixFn} {r : Nat} {b : Block} {code : Byte}
    (h : transformBlock f r b = .error code) : psiIter f r b = .error code := by
  unfold transformBlock at h
  cases hb : psiIter f r b with
  | ok c => simp [hb] at h
  | error c => simpa [hb] using h

/-- The blocks fail at one of them, those before it having values. -/
theorem transformBlocks_eq_error {f : MixFn} {r nb : Nat} {p : Nat → Byte} {code : Byte}
    (h : transformBlocks f r p nb = .error code) :
    ∃ k out, k < nb ∧ transformBlocks f r p k = .ok out ∧ transformBlock f r (blockAt p k) = .error code := by
  induction nb with
  | zero => cases h
  | succ nb ih =>
    rw [transformBlocks] at h
    cases hout : transformBlocks f r p nb with
    | error c =>
      obtain ⟨k, out, hk, hok, hfail⟩ := ih (by simpa [hout] using h)
      exact ⟨k, out, hk.trans (Nat.lt_succ_self nb), hok, hfail⟩
    | ok out =>
      refine ⟨nb, out, Nat.lt_succ_self nb, hout, ?_⟩
      cases hb : transformBlock f r (blockAt p nb) with
      | ok b => simp [hout, hb] at h
      | error c => simpa [hout, hb] using h

/-! ### The rounds of a block -/

/-- `s`, loaded, after `j` rounds of its block, `b` its halves then (R179, R180). -/
def afterRounds (j : Nat) (b : Block) (s : State) : State :=
  { s with
    left := b.1, right := b.2, rcnt := BitVec.ofNat 32 j
    requests := (roundRequests (mixFn s.mix) j (s.left, s.right)).reverse ++ s.requests
    phase := if j = s.latch.reff.toNat then .store else .freq }

theorem afterRounds_zero {s : State} (hp : s.phase = .freq) (hrc : s.rcnt = 0) (hr : s.latch.reff ≠ 0) :
    afterRounds 0 (s.left, s.right) s = s := by
  have hne : 0 ≠ s.latch.reff.toNat := (BitVec.toNat_ne_iff_ne.mpr hr).symm
  rw [afterRounds, if_neg hne, ← hp]
  exact congrArg (fun c => { s with rcnt := c }) hrc.symm

/-- A word counts up to a number exactly where the number does. -/
theorem ofNat_add_one_eq_iff {j : Nat} {w : Word} (h : j < w.toNat) : BitVec.ofNat 32 j + 1 = w ↔ j + 1 = w.toNat := by
  have hlt := w.isLt
  rw [← BitVec.toNat_inj, BitVec.toNat_add, BitVec.toNat_ofNat]
  simp only [BitVec.reduceToNat]
  omega

theorem afterRound_afterRounds {s : State} {j : Nat} {b b' : Block} (hj : j < s.latch.reff.toNat)
    (hb' : psiIter (mixFn s.mix) j (s.left, s.right) = .ok b') :
    afterRound b (afterRounds j b' s) = afterRounds (j + 1) b s := by
  simp only [afterRound, afterRounds, roundRequests_succ hb', ofNat_add_one_eq_iff hj, List.reverse_append,
    BitVec.ofNat_add]
  rfl

/-- From the loaded block on, each round with a value takes two steps (R179, R180, R184). -/
theorem stepMany_afterRounds {i : Instr} {s : State} (hq : Undisturbed s) (hl : latchedCommand s = some i)
    (hi : i = .round ∨ i = .enc ∨ i = .dec) (hp : s.phase = .freq) (hrc : s.rcnt = 0) (hr : s.latch.reff ≠ 0)
    {j : Nat} {b : Block} (hj : j ≤ s.latch.reff.toNat) (hb : psiIter (mixFn s.mix) j (s.left, s.right) = .ok b)
    (n : Nat) : stepMany (n + 2 * j) s = stepMany n (afterRounds j b s) := by
  induction j generalizing b n with
  | zero =>
    cases hb
    rw [afterRounds_zero hp hrc hr]
    rfl
  | succ j ih =>
    obtain ⟨b', hb', hpsi⟩ := psiIter_succ_eq_ok.mp hb
    have hlast : j ≠ s.latch.reff.toNat := by omega
    calc stepMany (n + 2 * (j + 1)) s
        = stepMany (n + 2 + 2 * j) s := by rw [Nat.mul_add_one, Nat.add_assoc, Nat.add_comm 2]
      _ = stepMany (n + 2) (afterRounds j b' s) := ih (by omega) hb' (n + 2)
      _ = stepMany n (afterRound b (afterRounds j b' s)) :=
          stepMany_afterRound (s := afterRounds j b' s) n hq hl (if_neg hlast) hi hpsi
      _ = stepMany n (afterRounds (j + 1) b s) := by rw [afterRound_afterRounds (by omega) hb']

/-- `s` after the request of `R` has failed with a code (R179, R180, R236). -/
def afterMixFault (code : Byte) (s : State) : State :=
  { failedState 5 0 s with fcode := code, requests := s.right :: s.requests }

/-- A request that fails ends the command in `MixFault` (R180, R230). -/
theorem stepMany_afterMixFault {i : Instr} {s : State} {code : Byte} (hq : Undisturbed s)
    (hl : latchedCommand s = some i) (hi : i = .round ∨ i = .enc ∨ i = .dec) (hp : s.phase = .freq)
    (hf : mixFn s.mix s.right = .fail code) : stepMany 2 s = .next (afterMixFault code s) := by
  have hresponse : exec i (requestStep s) = .next (afterMixFault code s) := by
    rw [exec_fwait hi rfl]
    exact congrArg (fun a => Host.Outcome.next (responseStep a (requestStep s))) hf
  exact (stepMany_succ_undisturbed 1 hq (by simp [hp]) hl (exec_freq hi hp)).trans
    (stepMany_succ_undisturbed (s := requestStep s) 0 hq nofun hl hresponse)

/-! ### The blocks of a command -/

/-- `s` is about to load block `k` of `ENC` or `DEC`, whose blocks are those of the input `p` (R174, R178). -/
structure AtBlock (i : Instr) (p : Nat → Byte) (k : Nat) (s : State) : Prop where
  quiet : Undisturbed s
  command : i = .enc ∨ i = .dec
  latched : latchedCommand s = some i
  rounds : s.latch.reff ≠ 0
  phase : s.phase = .load
  bcnt : s.bcnt = BitVec.ofNat 32 k
  rcnt : s.rcnt = 0
  block : k < s.latch.nb.toNat
  blocks : s.latch.nb.toNat ≤ 128
  input : ∀ k', k' < s.latch.nb.toNat → blockAt (blockInput i s) k' = blockAt p k'

theorem AtBlock.bcnt_toNat {i : Instr} {p : Nat → Byte} {k : Nat} {s : State} (h : AtBlock i p k s) :
    s.bcnt.toNat = k := by
  have hk := h.block
  have hnb := h.blocks
  rw [h.bcnt, BitVec.toNat_ofNat]
  omega

/-- `s` after a block whose halves were `b` has become `c` and is stored (R178 to R181). -/
def afterBlock (b c : Block) (s : State) : State :=
  { s with
    left := c.2, right := c.1, bcnt := s.bcnt + 1, rcnt := 0
    obuf := memPutSeq s.obuf (s.bcnt.toNat * 32) (blockBytes c)
    requests := (roundRequests (mixFn s.mix) s.latch.reff.toNat b).reverse ++ s.requests
    phase := if s.bcnt + 1 = s.latch.nb.setWidth 32 then .finish else .load }

section
variable {i : Instr} {p : Nat → Byte} {s : State}

/-- The `LOAD` step of a block and the first `j` of its rounds (R178 to R180). -/
theorem stepMany_loadRounds {k : Nat} (h : AtBlock i p k s) {j : Nat} {b : Block} (hj : j ≤ s.latch.reff.toNat)
    (hb : psiIter (mixFn s.mix) j (blockAt p k) = .ok b) (n : Nat) :
    stepMany (n + 2 * j + 1) s = stepMany n (afterRounds j b (afterLoad (blockAt p k) s)) := by
  have hblock := h.block
  have hblocks := h.blocks
  have hcap : (s.bcnt.toNat + 1) * 32 ≤ 4096 := by rw [h.bcnt_toNat]; omega
  have hload := stepMany_afterLoad (n + 2 * j) h.quiet h.latched h.phase hcap (exec_load (.inr h.command) h.phase)
  rw [h.bcnt_toNat, h.input k h.block] at hload
  rw [hload]
  exact stepMany_afterRounds (s := afterLoad (blockAt p k) s) h.quiet h.latched (.inr h.command) rfl h.rcnt h.rounds
    hj hb n

/-- A block takes its `LOAD` step, two steps for every round, and its `STORE` step (R184). -/
theorem stepMany_afterBlock {k : Nat} (h : AtBlock i p k s) {c : Block}
    (hc : transformBlock (mixFn s.mix) s.latch.reff.toNat (blockAt p k) = .ok c) (n : Nat) :
    stepMany (n + (2 + 2 * s.latch.reff.toNat)) s = stepMany n (afterBlock (blockAt p k) c s) := by
  have hblock := h.block
  have hblocks := h.blocks
  have hcap : (s.bcnt.toNat + 1) * 32 ≤ 4096 := by rw [h.bcnt_toNat]; omega
  let rounded := afterRounds s.latch.reff.toNat (flipBlock c) (afterLoad (blockAt p k) s)
  have hp : rounded.phase = .store := if_pos rfl
  calc stepMany (n + (2 + 2 * s.latch.reff.toNat)) s
      = stepMany (n + 1 + 2 * s.latch.reff.toNat + 1) s := congrArg (stepMany · s) (by omega)
    _ = stepMany (n + 1) rounded := stepMany_loadRounds h le_rfl (transformBlock_eq_ok.mp hc) (n + 1)
    _ = stepMany n (afterStore c rounded) :=
        stepMany_afterStore (s := rounded) n h.quiet h.latched hp hcap (exec_crypt_store h.command hp)

/-- `s`, about to load its first block, after `k` blocks that became `out`, `c` the last of them (R184, R187). -/
def blocksDone (p : Nat → Byte) (k : Nat) (out : List Byte) (c : Block) (s : State) : State :=
  { s with
    left := c.2, right := c.1, bcnt := BitVec.ofNat 32 k, rcnt := 0, obuf := memPutSeq s.obuf 0 out
    requests := (blockRequests (mixFn s.mix) s.latch.reff.toNat p k).reverse ++ s.requests
    phase := if k = s.latch.nb.toNat then .finish else .load }

theorem blocksDone_zero (h : AtBlock i p 0 s) : blocksDone p 0 [] (s.right, s.left) s = s := by
  have hne : 0 ≠ s.latch.nb.toNat := Nat.ne_of_lt h.block
  rw [blocksDone, if_neg hne, ← h.phase, ← h.rcnt, ← h.bcnt]
  rfl

theorem blocksDone_atBlock (h : AtBlock i p 0 s) {k : Nat} (hk : k < s.latch.nb.toNat) (out : List Byte) (c : Block) :
    AtBlock i p k (blocksDone p k out c s) :=
  { h with
    phase := if_neg hk.ne, bcnt := rfl, rcnt := rfl, block := hk
    input := by rcases h.command with rfl | rfl <;> exact h.input }

theorem afterBlock_blocksDone (h : AtBlock i p 0 s) {k : Nat} (hk : k < s.latch.nb.toNat) {init : List Byte}
    (hinit : init.length = k * 32) (b c : Block) :
    afterBlock (blockAt p k) c (blocksDone p k init b s) = blocksDone p (k + 1) (init ++ blockBytes c) c s := by
  have hbcnt : (blocksDone p k init b s).bcnt.toNat = k := (blocksDone_atBlock h hk init b).bcnt_toNat
  have hnb : (s.latch.nb.setWidth 32).toNat = s.latch.nb.toNat := BitVec.toNat_setWidth_of_le (by decide)
  have hlast : BitVec.ofNat 32 k + 1 = s.latch.nb.setWidth 32 ↔ k + 1 = s.latch.nb.toNat := by
    rw [ofNat_add_one_eq_iff (hnb ▸ hk), hnb]
  rw [afterBlock, hbcnt]
  simp only [blocksDone, hlast, memPutSeq_append, hinit, Nat.zero_add, blockRequests, List.reverse_append,
    List.append_assoc, BitVec.ofNat_add]
  rfl

/-- The first `k` blocks, by induction: each takes `2 + 2·REFF` steps (R184). -/
theorem stepMany_blocksDone (h : AtBlock i p 0 s) {k : Nat} {out : List Byte} (hk : k ≤ s.latch.nb.toNat)
    (hout : transformBlocks (mixFn s.mix) s.latch.reff.toNat p k = .ok out) :
    ∃ c, ∀ n, stepMany (n + k * (2 + 2 * s.latch.reff.toNat)) s = stepMany n (blocksDone p k out c s) := by
  induction k generalizing out with
  | zero =>
    cases hout
    exact ⟨_, fun n => by rw [blocksDone_zero h, Nat.zero_mul, Nat.add_zero]⟩
  | succ k ih =>
    obtain ⟨init, c, hinit, hc, rfl⟩ := transformBlocks_succ_eq_ok.mp hout
    obtain ⟨b, hb⟩ := ih (by omega) hinit
    refine ⟨c, fun n => ?_⟩
    have hblock := stepMany_afterBlock (blocksDone_atBlock h hk init b) (c := c) hc n
    rw [afterBlock_blocksDone h hk (transformBlocks_length hinit)] at hblock
    rw [Nat.add_one_mul, Nat.add_comm (k * _), ← Nat.add_assoc, hb]
    exact hblock

end

/-! ### The acceptance of an undisturbed `ENC` or `DEC` -/

/-- An idle machine whose unit answers, and an operand and a round count that the acceptance of `ENC` or `DEC` lets
pass (R190, R191). -/
structure CryptLegal (i : Instr) (s : State) : Prop where
  idle : s.phase = .idle
  answering : s.mix.answering = true
  rounds : s.rounds ≠ 0
  operand : i = .enc ∧ s.srcLen.toNat < 4096 ∨
    i = .dec ∧ s.srcLen.toNat ≠ 0 ∧ s.srcLen.toNat % 32 = 0 ∧ s.srcLen.toNat ≤ 4096

/-- The sequence whose blocks the command transforms (R171, R172). -/
def cryptData : Instr → State → List Byte
  | .enc, s => pad (hostOperand s)
  | _, s => hostOperand s

/-- That sequence as the input `p`, byte by byte (R172). -/
def cryptInput (i : Instr) (s : State) (j : Nat) : Byte := (cryptData i s).getD j 0

/-- The latch `M` of the command (R176). -/
def padLatch : Instr → State → Byte
  | .enc, s => padByte s.srcLen.toNat
  | _, _ => 0

/-- `s` after the write of the command has been answered and the command accepted (R176). -/
def acceptedCrypt (i : Instr) (s : State) : State :=
  acceptedState i s.rounds (padLatch i s) (BitVec.ofNat 8 ((cryptData i s).length / 32)) .load (submitted s)

/-- `s` after all blocks of the command have become `out` (R184, R187). -/
def cryptDone (i : Instr) (out : List Byte) (c : Block) (s : State) : State :=
  blocksDone (cryptInput i s) ((cryptData i s).length / 32) out c (acceptedCrypt i s)

@[simp] theorem hostOperand_length (s : State) : (hostOperand s).length = s.srcLen.toNat := bufSlice_length ..

theorem cryptData_enc (s : State) : cryptData .enc s = pad (hostOperand s) := rfl

theorem cryptData_dec (s : State) : cryptData .dec s = hostOperand s := rfl

theorem cryptData_enc_blocks (s : State) : (cryptData .enc s).length / 32 = s.srcLen.toNat / 32 + 1 := by
  rw [cryptData_enc, pad_length, hostOperand_length, Nat.mul_div_cancel _ (by decide)]

theorem cryptData_dec_blocks (s : State) : (cryptData .dec s).length / 32 = s.srcLen.toNat / 32 := by
  rw [cryptData_dec, hostOperand_length]

theorem acceptEnc_passes {s : State} (hn : s.srcLen.toNat < 4096) (hr : s.rounds ≠ 0) :
    acceptEnc s =
      acceptedState .enc s.rounds (padByte s.srcLen.toNat) (BitVec.ofNat 8 (s.srcLen.toNat / 32 + 1)) .load s := by
  rw [acceptEnc_eq, if_neg (Nat.not_le.mpr hn), if_neg hr]

theorem acceptDec_passes {s : State} (hne : s.srcLen.toNat ≠ 0) (hmod : s.srcLen.toNat % 32 = 0)
    (hn : s.srcLen.toNat ≤ 4096) (hr : s.rounds ≠ 0) :
    acceptDec s = acceptedState .dec s.rounds 0 (BitVec.ofNat 8 (s.srcLen.toNat / 32)) .load s := by
  rw [acceptDec_eq, if_neg (by omega), if_neg (Nat.not_lt.mpr hn), if_neg hr]

section
variable {i : Instr} {s : State} (h : CryptLegal i s)
include h

/-- There are between 1 and `CAP/B` blocks, and nothing beside them (R174). -/
theorem CryptLegal.blocks :
    0 < (cryptData i s).length / 32 ∧ (cryptData i s).length / 32 ≤ 128 ∧
      (cryptData i s).length / 32 * 32 = (cryptData i s).length := by
  rcases h.operand with ⟨rfl, hn⟩ | ⟨rfl, hne, hmod, hn⟩
  · rw [cryptData_enc_blocks, cryptData_enc, pad_length, hostOperand_length]; omega
  · rw [cryptData_dec_blocks, cryptData_dec, hostOperand_length]; omega

theorem acceptedCrypt_nb : (acceptedCrypt i s).latch.nb.toNat = (cryptData i s).length / 32 := by
  obtain ⟨-, hle, -⟩ := h.blocks
  exact (BitVec.toNat_ofNat ..).trans (Nat.mod_eq_of_lt (by omega))

theorem step_submit_crypt : step (submit (encode i) s) = .next (acceptedCrypt i s) := by
  rw [step_submit h.idle]
  rcases h.operand with ⟨rfl, hn⟩ | ⟨rfl, hne, hmod, hn⟩
  · rw [exec_enc_idle (s := submitted s) h.idle, acceptEnc_passes (s := submitted s) hn h.rounds, acceptedCrypt,
      cryptData_enc_blocks]
    rfl
  · rw [exec_dec_idle (s := submitted s) h.idle, acceptDec_passes (s := submitted s) hne hmod hn h.rounds,
      acceptedCrypt, cryptData_dec_blocks]
    rfl

/-- The input that the engine reads is the sequence, `ENC`'s padding without its ever being stored (R172). -/
theorem blockInput_acceptedCrypt {j : Nat} (hj : j < (cryptData i s).length) :
    blockInput i (acceptedCrypt i s) j = cryptInput i s j := by
  have hbyte {j : Nat} (hj : j < s.srcLen.toNat) : (hostOperand s)[j]? = some (bufByte .ibuf s j) := by
    rw [hostOperand, bufSlice_getElem?, if_pos hj, Nat.zero_add]
  rw [cryptInput, List.getD_eq_getElem?_getD]
  rcases h.operand with ⟨rfl, hn⟩ | ⟨rfl, -⟩
  · show (if j < s.srcLen.toNat then bufByte .ibuf s j else padByte s.srcLen.toNat) = _
    rw [cryptData_enc, pad_length_eq_add] at hj
    rw [cryptData_enc, pad_getElem?, if_pos hj, hostOperand_length]
    split
    · rw [hbyte ‹_›]; rfl
    · rfl
  · rw [cryptData_dec, hostOperand_length] at hj
    rw [cryptData_dec, hbyte hj]
    rfl

theorem acceptedCrypt_atBlock : AtBlock i (cryptInput i s) 0 (acceptedCrypt i s) := by
  obtain ⟨hpos, hle, hlen⟩ := h.blocks
  have hnb := acceptedCrypt_nb h
  refine ⟨⟨rfl, h.answering⟩, ?_, latchedCommand_eq_some.mpr (decode_latched_encode i), h.rounds, rfl, rfl, rfl,
    hnb ▸ hpos, hnb ▸ hle, fun k hk => blockAt_congr fun j hj => blockInput_acceptedCrypt h ?_⟩
  · rcases h.operand with ⟨rfl, -⟩ | ⟨rfl, -⟩ <;> simp
  · rw [hnb] at hk; omega

/-! ### The whole run -/

theorem cryptDone_phase (out : List Byte) (c : Block) : (cryptDone i out c s).phase = .finish :=
  if_pos (acceptedCrypt_nb h).symm

theorem cryptDone_bcnt (out : List Byte) (c : Block) :
    (cryptDone i out c s).bcnt.toNat = (cryptData i s).length / 32 := by
  obtain ⟨-, hle, -⟩ := h.blocks
  exact (BitVec.toNat_ofNat ..).trans (Nat.mod_eq_of_lt (by omega))

/-- Acceptance, the blocks, and the `FINISH` step: `2 + NB·(2 + 2·REFF)` steps (R184). -/
theorem stepMany_cryptCommand {out : List Byte}
    (hout : cryptSeq (mixFn s.mix) s.rounds.toNat (cryptData i s) = .ok out) :
    ∃ c, ∀ t, exec i (cryptDone i out c s) = .next t →
      stepMany (2 + (cryptData i s).length / 32 * (2 + 2 * s.rounds.toNat)) (submit (encode i) s) = .next t := by
  have hat := acceptedCrypt_atBlock h
  obtain ⟨c, hc⟩ := stepMany_blocksDone hat (acceptedCrypt_nb h).ge (cryptSeq_eq_ok.mp hout)
  refine ⟨c, fun t ht => ?_⟩
  have hp := cryptDone_phase h out c
  calc stepMany (2 + (cryptData i s).length / 32 * (2 + 2 * s.rounds.toNat)) (submit (encode i) s)
      = stepMany (1 + (cryptData i s).length / 32 * (2 + 2 * s.rounds.toNat) + 1) (submit (encode i) s) :=
        congrArg (stepMany · _) (by omega)
    _ = stepMany (1 + (cryptData i s).length / 32 * (2 + 2 * s.rounds.toNat)) (acceptedCrypt i s) :=
        stepMany_succ_of_step (step_submit_crypt h)
    _ = stepMany 1 (cryptDone i out c s) := hc 1
    _ = .next t := stepMany_succ_undisturbed (s := cryptDone i out c s) 0 hat.quiet (by simp [hp]) hat.latched ht

end

end Sys2Proof.Machine
end

section
/-! What an undisturbed `ENC` or `DEC` ends in: `crypt` of its operand (R171, R190, R191), a `MixFault` where a request
fails (R196, R230), and the message again after `ENC` and `DEC` (R193). -/

namespace Sys2Proof.Machine

/-- The blocks stored have the length of the sequence transformed (R187). -/
theorem CryptLegal.output_length {i : Instr} {s : State} (h : CryptLegal i s) {out : List Byte}
    (hout : cryptSeq (mixFn s.mix) s.rounds.toNat (cryptData i s) = .ok out) :
    out.length = (cryptData i s).length := by
  obtain ⟨-, -, hlen⟩ := h.blocks
  rw [transformBlocks_length (cryptSeq_eq_ok.mp hout), hlen]

theorem cryptDone_obuf (i : Instr) (out : List Byte) (c : Block) (s : State) :
    ObufHolds out s (cryptDone i out c s) := obufHolds_of_memPutSeq rfl rfl

/-- The requests on record are those of all blocks (R185). -/
theorem cryptDone_requests (i : Instr) (out : List Byte) (c : Block) (s : State) :
    (cryptDone i out c s).requests =
      (blockRequests (mixFn s.mix) s.rounds.toNat (cryptInput i s) ((cryptData i s).length / 32)).reverse ++
        s.requests := rfl

/-- A result length of at most `CAP` fits the register (R34). -/
theorem finishWith_dstLen_toNat {len : Nat} (hlen : len ≤ 4096) (s : State) : (finishWith len s).dstLen.toNat = len :=
  (BitVec.toNat_ofNat ..).trans (Nat.mod_eq_of_lt (by omega))

/-- The result is the front of what `OBUF` holds (R12). -/
theorem ObufHolds.hostResult {out : List Byte} {s t : State} (h : ObufHolds out s t)
    (hlen : t.dstLen.toNat ≤ out.length) : hostResult t = out.take t.dstLen.toNat := h.slice hlen

/-! ### `ENC` (R190) -/

/-- Settles O20: the blocks of the padded operand become `out`, and `FINISH` makes them the result. -/
theorem encCommandComputesCrypt : Obligations.EncCommandComputesCrypt := by
  rintro s out _ _ hp ha hn rfl hr rfl hcrypt
  have hlegal : CryptLegal .enc s := ⟨hp, ha, fun h => hr (by simp [h]), .inl ⟨rfl, hn⟩⟩
  obtain ⟨c, hrun⟩ := stepMany_cryptCommand hlegal (out := out) hcrypt
  have hbcnt := cryptDone_bcnt hlegal out c
  have hlen := hlegal.output_length hcrypt
  have hnb := acceptedCrypt_nb hlegal
  have hrequests := cryptDone_requests .enc out c s
  rw [cryptData_enc, pad_length, hostOperand_length] at hlen
  rw [cryptData_enc_blocks] at hrun hbcnt hnb hrequests
  let t := finishWith ((s.srcLen.toNat / 32 + 1) * 32) (cryptDone .enc out c s)
  have hfinish : exec .enc (cryptDone .enc out c s) = .next t := by
    rw [exec_enc_finish (cryptDone_phase hlegal out c)]
    exact congrArg (fun k => Host.Outcome.next (finishWith (k * 32) (cryptDone .enc out c s))) hnb
  have hdst : t.dstLen.toNat = (s.srcLen.toNat / 32 + 1) * 32 := finishWith_dstLen_toNat (by omega) _
  have hobuf : ObufHolds out s t := cryptDone_obuf .enc out c s
  have hresult : hostResult t = out := by
    rw [hobuf.hostResult (by omega), hdst, ← hlen, List.take_length]
  exact ⟨t, hrun t hfinish, ⟨rfl, rfl, rfl, rfl⟩, rfl, rfl, hresult, hdst, hbcnt, rfl, rfl, rfl, hrequests,
    fun j hj => hobuf.behind (hlen ▸ hj)⟩

/-! ### `DEC` (R191) -/

/-- What the validating unpad leaves is the front of its argument (R153). -/
theorem unpadV_take {d v : List Byte} (h : unpadV d = .ok v) : d.take v.length = v := by
  rcases unpadV_ok h with ⟨rfl, rfl⟩ | ⟨m, -, -, -, -, rfl, -⟩
  · rfl
  · rw [List.length_take_of_le (Nat.sub_le ..)]

/-- The two ends of decrypting whole blocks, if no request fails (R171). -/
theorem crypt_decrypt_cases {d : List Byte} {f : MixFn} {r : Nat} {res : Except CryptError (List Byte)}
    (hne : d.length ≠ 0) (hd : d.length % 32 = 0) (h : crypt d f true r = res)
    (hmix : ∀ code, res ≠ .error (.mix code)) :
    ∃ out, cryptSeq f r d = .ok out ∧
      ((∃ v, unpadV out = .ok v ∧ res = .ok v) ∨ ∃ m, unpadV out = .error m ∧ res = .error (.padding m)) := by
  rw [crypt_decrypt f r hne hd] at h
  cases hout : cryptSeq f r d with
  | error e =>
    obtain ⟨code, -, rfl⟩ := cryptSeq_eq_error.mp hout
    rw [hout] at h
    exact absurd h.symm (hmix code)
  | ok out =>
    rw [hout] at h
    refine ⟨out, rfl, ?_⟩
    cases hu : unpadV out with
    | ok v => exact .inl ⟨v, rfl, h.symm.trans (congrArg (Except.mapError _) hu)⟩
    | error m => exact .inr ⟨m, rfl, h.symm.trans (congrArg (Except.mapError _) hu)⟩

/-- What `FINISH` reads back is all that the blocks became, for `DEC` has no other bytes to store (R182). -/
theorem storedOutput_cryptDone {s : State} {out : List Byte} (hlen : out.length = s.srcLen.toNat) (c : Block) :
    storedOutput (cryptDone .dec out c s) = out :=
  ((cryptDone_obuf .dec out c s).slice hlen.ge).trans (List.take_of_length_le hlen.le)

/-- Settles O21: the blocks of the operand become `out`, and `FINISH` unpads them in place or ends in the error. -/
theorem decCommandComputesCrypt : Obligations.DecCommandComputesCrypt := by
  rintro s res _ _ hp ha hne hmod hn rfl hr rfl hcrypt hmix
  have hlegal : CryptLegal .dec s := ⟨hp, ha, fun h => hr (by simp [h]), .inr ⟨rfl, hne, hmod, hn⟩⟩
  obtain ⟨out, hout, hend⟩ := crypt_decrypt_cases (by rwa [hostOperand_length]) (by rwa [hostOperand_length]) hcrypt hmix
  obtain ⟨c, hrun⟩ := stepMany_cryptCommand hlegal hout
  have hlen : out.length = s.srcLen.toNat := (hlegal.output_length hout).trans (hostOperand_length s)
  have hphase := cryptDone_phase hlegal out c
  have hbcnt := cryptDone_bcnt hlegal out c
  have hrequests := cryptDone_requests .dec out c s
  rw [cryptData_dec_blocks] at hrun hbcnt hrequests
  have hstored := storedOutput_cryptDone hlen c
  have hobuf := cryptDone_obuf .dec out c s
  have hbehind : ∀ j, s.srcLen.toNat / 32 * 32 ≤ j → bufByte .obuf (cryptDone .dec out c s) j = bufByte .obuf s j :=
    fun j hj => hobuf.behind (by omega)
  rcases hend with ⟨v, hv, rfl⟩ | ⟨m, hm, rfl⟩
  · let t := finishWith v.length (cryptDone .dec out c s)
    have hle := unpadV_length_le hv
    have hdst : t.dstLen.toNat = v.length := finishWith_dstLen_toNat (by omega) _
    have hresult : hostResult t = v := by
      rw [ObufHolds.hostResult (t := t) hobuf (hdst ▸ hle), hdst, unpadV_take hv]
    refine ⟨t, hrun t (exec_dec_finish_of_ok hphase hn (hstored.symm ▸ hv)), rfl, rfl, rfl, hbcnt, rfl, rfl,
      hrequests, hbehind, ?_, nofun⟩
    rintro _ ⟨⟩
    exact ⟨⟨rfl, rfl, rfl, rfl⟩, rfl, rfl, hdst, hresult⟩
  · refine ⟨_, hrun _ (exec_dec_finish_of_error hphase hn (hstored.symm ▸ hm)), rfl, rfl, rfl, hbcnt, rfl, rfl,
      hrequests, hbehind, nofun, ?_⟩
    rintro _ ⟨⟩
    exact ⟨rfl, rfl, rfl, rfl, rfl⟩

/-! ### A request that fails (R196, R230) -/

/-- `s` when `k` blocks of the command have become `out`, `c` the last of them, and block `k` has gone through `j`
rounds, `b` its halves then (R184). -/
def cryptInBlock (i : Instr) (k j : Nat) (out : List Byte) (c b : Block) (s : State) : State :=
  afterRounds j b (afterLoad (blockAt (cryptInput i s) k) (blocksDone (cryptInput i s) k out c (acceptedCrypt i s)))

section
variable {i : Instr} {s : State} {k j : Nat} {out : List Byte} {b : Block}
  (hout : transformBlocks (mixFn s.mix) s.rounds.toNat (cryptInput i s) k = .ok out)
  (hb : psiIter (mixFn s.mix) j (blockAt (cryptInput i s) k) = .ok b)
include hout hb

/-- Every block before has sent a request for each of its rounds, and this one `j` (R185). -/
theorem cryptInBlock_requests_length (c : Block) :
    (cryptInBlock i k j out c b s).requests.length = s.requests.length + k * s.rounds.toNat + j := by
  show ((roundRequests (mixFn s.mix) j (blockAt (cryptInput i s) k)).reverse ++
    ((blockRequests (mixFn s.mix) s.rounds.toNat (cryptInput i s) k).reverse ++ s.requests)).length = _
  simp only [List.length_append, List.length_reverse, roundRequests_length hb, blockRequests_length hout]
  omega

/-- Where the next request fails, all requests before it having been answered with values, the command ends there, in
`MixFault` (R185, R196). -/
theorem stepMany_mixFault {code : Byte} (h : CryptLegal i s) (hk : k < (cryptData i s).length / 32)
    (hj : j < s.rounds.toNat) (hfail : mixFn s.mix b.2 = .fail code) :
    ∃ n c, stepMany n (submit (encode i) s) = .next (afterMixFault code (cryptInBlock i k j out c b s)) := by
  have hat := acceptedCrypt_atBlock h
  rw [← acceptedCrypt_nb h] at hk
  obtain ⟨c, hc⟩ := stepMany_blocksDone hat hk.le hout
  have hatk := blocksDone_atBlock hat hk out c
  have hfault := stepMany_afterMixFault (s := cryptInBlock i k j out c b s) hatk.quiet hatk.latched
    (.inr hatk.command) (if_neg hj.ne) hfail
  refine ⟨2 + 2 * j + 1 + k * (2 + 2 * s.rounds.toNat) + 1, c, ?_⟩
  rw [stepMany_succ_of_step (step_submit_crypt h)]
  exact (hc _).trans ((stepMany_loadRounds hatk hj.le hb 2).trans hfault)

end

/-- Decrypting fails with `F`'s code only past the check of the length, and where the blocks do (R171). -/
theorem crypt_decrypt_eq_mix {d : List Byte} {f : MixFn} {r : Nat} {code : Byte}
    (h : crypt d f true r = .error (.mix code)) :
    d.length ≠ 0 ∧ d.length % 32 = 0 ∧ cryptSeq f r d = .error (.mix code) := by
  by_cases hlen : d.length = 0 ∨ d.length % 32 ≠ 0
  · have hcrypt : crypt d f true r = .error .invalidInputLength := by
      simp only [crypt, if_true, blockSize_eq, if_pos hlen]
    cases hcrypt.symm.trans h
  · obtain ⟨hne, hd⟩ : d.length ≠ 0 ∧ d.length % 32 = 0 := by simpa using hlen
    rw [crypt_decrypt f r hne hd] at h
    refine ⟨hne, hd, ?_⟩
    cases hout : cryptSeq f r d with
    | error e => simpa [hout, Except.bind] using h
    | ok out =>
      simp only [hout, Except.bind] at h
      cases hu : unpadV out <;> simp [hu, Except.mapError] at h

/-- Settles O22: the transform fails at one round of one block, and the command ends at that request. -/
theorem failingMixEndsInMixFault : Obligations.FailingMixEndsInMixFault := by
  rintro s i code _ hp ha rfl hr hcases
  obtain ⟨hlegal, hseq⟩ : CryptLegal i s ∧
      cryptSeq (mixFn s.mix) s.rounds.toNat (cryptData i s) = .error (.mix code) := by
    have hrounds : s.rounds ≠ 0 := fun h => hr (by simp [h])
    rcases hcases with ⟨rfl, hn, hcrypt⟩ | ⟨rfl, hn, hcrypt⟩
    · exact ⟨⟨hp, ha, hrounds, .inl ⟨rfl, hn⟩⟩, hcrypt⟩
    · obtain ⟨hne, hmod, hseq⟩ := crypt_decrypt_eq_mix hcrypt
      rw [hostOperand_length] at hne hmod
      exact ⟨⟨hp, ha, hrounds, .inr ⟨rfl, hne, hmod, hn⟩⟩, hseq⟩
  obtain ⟨_, hblocks, ⟨⟩⟩ := cryptSeq_eq_error.mp hseq
  obtain ⟨k, out, hk, hout, hblock⟩ := transformBlocks_eq_error hblocks
  obtain ⟨j, b, hj, hb, hfail⟩ := psiIter_eq_error (transformBlock_eq_error hblock)
  obtain ⟨n, c, hrun⟩ := stepMany_mixFault hout hb hlegal hk hj hfail
  obtain ⟨-, hle, -⟩ := hlegal.blocks
  have hbcnt : (BitVec.ofNat 32 k).toNat = k := by rw [BitVec.toNat_ofNat]; omega
  have hrcnt : (BitVec.ofNat 32 j).toNat = j := by
    have := s.rounds.isLt
    rw [BitVec.toNat_ofNat]; omega
  refine ⟨n, _, hrun, rfl, rfl, rfl, rfl, rfl, rfl, rfl, rfl, rfl, hrcnt.trans_lt hj, fun j' hj' => ?_,
    b.2, (cryptInBlock i k j out c b s).requests, rfl, hfail, ?_⟩
  · have hobuf : ObufHolds out s (cryptInBlock i k j out c b s) := obufHolds_of_memPutSeq rfl rfl
    refine hobuf.behind ?_
    rw [transformBlocks_length hout, ← hbcnt]
    exact hj'
  · show (cryptInBlock i k j out c b s).requests.length + 1 =
      s.requests.length + (BitVec.ofNat 32 k).toNat * s.rounds.toNat + (BitVec.ofNat 32 j).toNat + 1
    rw [hbcnt, hrcnt, cryptInBlock_requests_length hout hb]

/-! ### The message again (R193) -/

/-- Settles O23: the result of `ENC` is whole blocks, which `DEC` accepts, and decrypting undoes encrypting. -/
theorem encryptThenDecryptRestores : Obligations.EncryptThenDecryptRestores := by
  rintro s c r nb hp ha hn hrs hr hnb hcrypt
  obtain ⟨t, hrun, hsucc, -, -, hresult, hdst, -⟩ := encCommandComputesCrypt s c r nb hp ha hn hrs hr hnb hcrypt
  refine ⟨t, hrun, hsucc, hresult, fun u hpu hmix hrounds hlen hop => ?_⟩
  have hback : crypt (hostOperand u) (mixFn u.mix) true r = .ok (hostOperand s) := by
    rw [hop, hresult, hmix]
    exact crypt_roundTrip hcrypt
  have hsrc : u.srcLen.toNat = nb * 32 := hlen ▸ hdst
  obtain ⟨v, hrunv, -, -, -, -, -, -, -, -, hok, -⟩ :=
    decCommandComputesCrypt u (.ok (hostOperand s)) r nb hpu (hmix ▸ ha) (by omega) (by omega) (by omega)
      (hrounds ▸ hrs) hr (by omega) hback nofun
  obtain ⟨hsuccv, -, -, hdstv, hresultv⟩ := hok _ rfl
  exact ⟨v, hrunv, hsuccv, BitVec.eq_of_toNat_eq (hdstv.trans (hostOperand_length s)), hresultv⟩

end Sys2Proof.Machine
end

section
/-! The registers as the host sees them: what each reads as (R63, R213), the acknowledge (R29, R212), and `RST`, which
puts every one of them at its reset value (R210). -/

namespace Sys2Proof.Machine

/-! ### Reads (R63) -/

/-- Settles O37: each of the offsets is that of a register, and the word beside it is what the register reads as. -/
theorem registerReads : Obligations.RegisterReads := by
  intro s addr v rest hmem he
  obtain ⟨r, -, heq⟩ : ∃ r ∈ [Reg.ctrl, .cmd, .rounds, .srcLen, .src2Len, .dstLen, .rcnt, .bcnt, .errinfo, .ferr, .id,
      .capr], (regAddr r, regRead r s) = (addr, v) := List.mem_map.mp hmem
  obtain ⟨rfl, rfl⟩ := Prod.mk.inj heq
  exact step_registerRead he

/-! ### The acknowledge (R212) -/

/-- A flag that is cleared by writing 1 to its bit (R29). -/
theorem and_not_eq_ite (flag bit : Bool) : (flag && !bit) = if bit = true then false else flag := by
  cases bit <;> simp

/-- Without `DONE` the interrupt line is low, whatever `CTRL.IE` says (R240). -/
theorem irq_eq_false {s : State} (h : s.done = false) : irq s = false := by
  rw [irq, h, Bool.false_and]

/-- Settles O40: the write is `clearStatus`, which touches the two flags only. -/
theorem acknowledgeClears : Obligations.AcknowledgeClears := by
  intro s v rest hp he
  refine ⟨_, step_registerWrite (r := .status) (by decide) hp he, rfl, and_not_eq_ite .., and_not_eq_ite ..,
    fun hv => irq_eq_false ?_⟩
  show (s.done && !v.getLsbD 1) = false
  rw [hv, Bool.not_true, Bool.and_false]

/-! ### `RST` (R210) -/

theorem exec_rst_idle {s : State} (hp : s.phase = .idle) : exec .rst s = .next (softReset (acceptClear s)) := by
  simp only [exec, execRst, hp]

/-- Settles O10: the soft reset sets every register that acceptance clears, and leaves the rest to its free values. -/
theorem rstCommand : Obligations.RstCommand :=
  ⟨rfl, fun s hp => ⟨softReset (acceptClear s), exec_rst_idle hp, rfl⟩⟩

end Sys2Proof.Machine
end

section
/-! The exceptions of the acceptance (R231): the word that is no command (R94), and the error each command's acceptance
reports, for one command and one error kind at a time (R225). -/

namespace Sys2Proof.Machine

/-! ### An illegal word (R231) -/

/-- A word that is no command's encoding does not decode, so after the clearing its acceptance ends in the error. -/
theorem startCommand_illegal {w : Word} (hw : ∀ i, w ≠ encode i) (s : State) :
    startCommand w s = .next (raise .illegalCommand w (acceptClear s)) := by
  rw [startCommand]
  cases hd : decode w with
  | ok i => exact absurd (eq_encode_of_decode hd) (hw i)
  | error _ => rfl

/-- Settles O5: the state after the write is the cleared one with the error raised, still idle. -/
theorem illegalWordEndsInIllegalCommand : Obligations.IllegalWordEndsInIllegalCommand := by
  intro s w rest hp he hw
  rw [step_commandWrite hp he, startCommand_illegal hw]
  simp only [raise, acceptClear, reply, errorCode, ← hp]

/-! ### The errors of acceptance (R225) -/

/-- The first check of its acceptance that a command fails, by the error it ends in (R113 to R191). -/
def acceptanceError (s : State) : Instr → Option ErrorKind
  | .xor =>
    if s.srcLen ≠ s.src2Len then some .lengthMismatch
    else if 4096 < s.srcLen.toNat then some .capacityExceeded else none
  | .round => if s.srcLen.toNat % 2 = 1 ∨ s.srcLen.toNat ≠ 32 then some .invalidBlockLength else none
  | .flip =>
    if s.srcLen.toNat % 2 = 1 then some .invalidBlockLength
    else if 4096 < s.srcLen.toNat then some .capacityExceeded else none
  | .pad => if 4096 ≤ s.srcLen.toNat then some .capacityExceeded else none
  | .unpad => if 4096 < s.srcLen.toNat then some .capacityExceeded else none
  | .enc =>
    if 4096 ≤ s.srcLen.toNat then some .capacityExceeded
    else if s.rounds = 0 then some .invalidRoundCount else none
  | .dec =>
    if s.srcLen.toNat = 0 ∨ s.srcLen.toNat % 32 ≠ 0 then some .invalidInputLength
    else if 4096 < s.srcLen.toNat then some .capacityExceeded
    else if s.rounds = 0 then some .invalidRoundCount else none
  | .rst => none

/-- `ERRCODE` where a command reports an error or none (R29, R225). -/
def reportedCode (e : Option ErrorKind) : Byte := e.elim 0 errorCode

/-- The codes tell the errors apart, and from no error. -/
theorem reportedCode_eq_errorCode {o : Option ErrorKind} {e : ErrorKind} :
    reportedCode o = errorCode e ↔ o = some e := by
  cases o with
  | none => exact iff_of_false (errorCode_range e).1.symm nofun
  | some e' => cases e' <;> cases e <;> decide

theorem reportedCode_le (o : Option ErrorKind) : (reportedCode o).toNat ≤ 8 := by
  cases o with
  | none => exact Nat.zero_le 8
  | some e => exact (errorCode_range e).2

/-- What a command reports once accepted: its failed check's error, or none while it goes on (R176, R236). -/
theorem exec_idle_errcode {i : Instr} {s t : State} (hp : s.phase = .idle) (h : exec i s = .next t) :
    t.errcode = reportedCode (acceptanceError s i) := by
  cases i
  case rst => rw [exec_rst_idle hp] at h; cases h; rfl
  all_goals
    simp only [exec_xor_idle hp, exec_round_idle hp, exec_flip_idle hp, exec_pad_idle hp, exec_unpad_idle hp,
      exec_enc_idle hp, exec_dec_idle hp, acceptXor_eq, acceptRound_eq, acceptFlip_eq, acceptPad_eq, acceptUnpad_eq,
      acceptEnc_eq, acceptDec_eq] at h
    cases h
    simp only [acceptanceError, apply_ite State.errcode, apply_ite reportedCode]
    rfl

section
variable (s : State) (i : Instr)

theorem acceptanceError_eq_lengthMismatch :
    acceptanceError s i = some .lengthMismatch ↔ i = .xor ∧ s.srcLen ≠ s.src2Len := by
  cases i <;> simp [acceptanceError, ite_eq_iff]

theorem acceptanceError_eq_invalidBlockLength :
    acceptanceError s i = some .invalidBlockLength ↔
      (i = .round ∧ s.srcLen.toNat ≠ 32) ∨ (i = .flip ∧ s.srcLen.toNat % 2 = 1) := by
  cases i with
  | round => simp [acceptanceError]; omega
  | _ => simp [acceptanceError, ite_eq_iff]

theorem acceptanceError_eq_invalidInputLength :
    acceptanceError s i = some .invalidInputLength ↔
      i = .dec ∧ (s.srcLen.toNat = 0 ∨ s.srcLen.toNat % 32 ≠ 0) := by
  cases i <;> simp [acceptanceError, ite_eq_iff, imp_iff_not_or]

/-- A length above the capacity is not 0, so of the check of `DEC` before it only the one for whole blocks counts. -/
theorem acceptanceError_eq_capacityExceeded :
    acceptanceError s i = some .capacityExceeded ↔
      4096 < s.srcLen.toNat ∧ ((i = .xor ∧ s.srcLen = s.src2Len) ∨ (i = .flip ∧ s.srcLen.toNat % 2 = 0) ∨
        i = .unpad ∨ (i = .dec ∧ s.srcLen.toNat % 32 = 0)) ∨
      4096 ≤ s.srcLen.toNat ∧ (i = .pad ∨ i = .enc) := by
  cases i with
  | dec => simp [acceptanceError, ite_eq_iff]; omega
  | _ => simp [acceptanceError, ite_eq_iff, and_comm]

theorem acceptanceError_eq_invalidRoundCount :
    acceptanceError s i = some .invalidRoundCount ↔
      s.rounds = 0 ∧ ((i = .enc ∧ s.srcLen.toNat < 4096) ∨
        (i = .dec ∧ s.srcLen.toNat ≠ 0 ∧ s.srcLen.toNat % 32 = 0 ∧ s.srcLen.toNat ≤ 4096)) := by
  cases i <;> simp [acceptanceError, ite_eq_iff, and_assoc, and_comm, and_left_comm]

/-- The errors of an `EXEC`, `FRESP` or `FINISH` step, and of a word that is no command, are not acceptance's. -/
theorem acceptanceError_ne {e : ErrorKind} (he : e = .paddingError ∨ e = .mixFault ∨ e = .illegalCommand) :
    acceptanceError s i ≠ some e := by
  rcases he with rfl | rfl | rfl <;> cases i <;> simp [acceptanceError, ite_eq_iff]

end

/-- Settles O13: the code is that of the failed check, and each error belongs to the checks of one lemma above. -/
theorem acceptanceErrorCodes : Obligations.AcceptanceErrorCodes := by
  rintro i s t n hp rfl h
  have hcode (e : ErrorKind) : t.errcode = errorCode e ↔ acceptanceError s i = some e := by
    rw [exec_idle_errcode hp h, reportedCode_eq_errorCode]
  exact ⟨(hcode .lengthMismatch).trans (acceptanceError_eq_lengthMismatch s i),
    (hcode .invalidBlockLength).trans (acceptanceError_eq_invalidBlockLength s i),
    (hcode .invalidInputLength).trans (acceptanceError_eq_invalidInputLength s i),
    (hcode .capacityExceeded).trans (acceptanceError_eq_capacityExceeded s i),
    (hcode .invalidRoundCount).trans (acceptanceError_eq_invalidRoundCount s i),
    (hcode .paddingError).not.mpr (acceptanceError_ne s i (.inl rfl)),
    (hcode .mixFault).not.mpr (acceptanceError_ne s i (.inr (.inl rfl))),
    (hcode .illegalCommand).not.mpr (acceptanceError_ne s i (.inr (.inr rfl))),
    exec_idle_errcode hp h ▸ reportedCode_le _⟩

end Sys2Proof.Machine
end

section
/-! Hard reset (R260, R262): the one event whose step asks for no phase. -/

namespace Sys2Proof.Machine

theorem step_hardReset {s : State} {rest : List Event} (he : s.events = .hardReset :: rest) :
    step s = .next (hardReset { s with events := rest }) :=
  step_event he

/-- Settles O45: `hardReset` writes every register and empties the buffers without a look at the phase, and the rest of
what it writes are the free values that the statement leaves open. -/
theorem hardResetFromAnyPhase : Obligations.HardResetFromAnyPhase :=
  fun _ _ he => ⟨_, step_hardReset he, rfl⟩

end Sys2Proof.Machine
end
